-- ==== Sys2Proof/Word.lean ====
section
/-!
DEFINITION. The words of the core (00_scope.md R14, R15): bytes, millisecond values, the command port's words,
and the 8-byte frame indexed by byte position (20_memory.md R50, R51, R53).
-/
namespace Sys2Proof

/-- One byte of a frame or of the link (R53, R54). -/
abbrev Byte := BitVec 8

/-- A value of the millisecond clock, `CLK_W = 32` bits (R11). Subtraction of two of them is the wrapping
difference `-w` of R15. -/
abbrev Ms := BitVec 32

/-- The width of `arg` and of RESULT (R81). -/
abbrev Word := BitVec 32

/-- `FRAME_LEN` = 8 bytes, byte 0 first on the wire (R8, R53, R70). -/
abbrev Frame := Vector Byte 8

end Sys2Proof
end

