-- ==== Sys2Proof/Syntax.lean ====
section
/-!
DEFINITION. The host's side of the core: the command as the port carries it (30_encoding.md R81), the commands of the
opcode map (R82) with the operands of R83, and the names of R79 and R80.
-/
namespace Sys2Proof

/-- A command as presented on the port: three fields (R81). -/
structure Command where
  op : Byte
  arg : Word
  data : BitVec 64
  deriving DecidableEq, Repr

/-- The controller role, operand of ATTACH and content of ROLE (R38, R83). -/
inductive Role where
  | primary
  | secondary
  deriving DecidableEq, Repr

/-- 0 = primary, 1 = secondary (R38). -/
def Role.code : Role → BitVec 1
  | .primary => 0#1
  | .secondary => 1#1

/-- The mode names of R79; codes 6 and 7 have none. -/
inductive ModeName where
  | unknown | fan | dry | cool | heat | auto
  deriving DecidableEq, Repr

/-- R79, declaration order from 0. -/
def ModeName.code : ModeName → BitVec 3
  | .unknown => 0#3
  | .fan => 1#3
  | .dry => 2#3
  | .cool => 3#3
  | .heat => 4#3
  | .auto => 5#3

/-- The fan names of R80; codes 5 to 7 have none. -/
inductive FanName where
  | auto | quiet | low | medium | high
  deriving DecidableEq, Repr

/-- R80, declaration order from 0. -/
def FanName.code : FanName → BitVec 3
  | .auto => 0#3
  | .quiet => 1#3
  | .low => 2#3
  | .medium => 3#3
  | .high => 4#3

/-- The commands of the opcode map (R82), one constructor a row of opcode_table.json. Operands have the widths of
R83; SETMODE and SETFAN hold the raw code, since a code outside the legal values is a command too (R202). -/
inductive Instr where
  /-- ATTACH `role` = arg[0] (R192). -/
  | attach (role : Role)
  /-- POLL (R107). -/
  | poll
  /-- WAIT `timeout_ms` = arg[31:0] (R108). -/
  | wait (timeoutMs : Ms)
  /-- SEND (R166). -/
  | send
  /-- DECODE_EXT `len` = arg[3:0], frame byte i = data[8i+7:8i] (R147). -/
  | decodeExt (len : BitVec 4) (frame : Frame)
  /-- SETPWR `on` = arg[0] (R162). -/
  | setPwr (on : BitVec 1)
  /-- SETMODE `code` = arg[2:0] (R163). -/
  | setMode (code : BitVec 3)
  /-- SETFAN `code` = arg[2:0] (R164). -/
  | setFan (code : BitVec 3)
  /-- SETTEMP `celsius` = arg[7:0] (R165). -/
  | setTemp (celsius : Byte)
  /-- GET_POWER (R195). -/
  | getPower
  /-- GET_MODE (R196). -/
  | getMode
  /-- GET_FAN (R197). -/
  | getFan
  /-- GET_TARGET (R198). -/
  | getTarget
  /-- GET_CURRENT (R199). -/
  | getCurrent
  /-- GET_PENDING (R200). -/
  | getPending
  deriving DecidableEq, Repr

/-- The opcode column of R82. -/
def Instr.opcode : Instr → Byte
  | .attach _ => 0x01#8
  | .poll => 0x02#8
  | .wait _ => 0x03#8
  | .send => 0x04#8
  | .decodeExt _ _ => 0x05#8
  | .setPwr _ => 0x10#8
  | .setMode _ => 0x11#8
  | .setFan _ => 0x12#8
  | .setTemp _ => 0x13#8
  | .getPower => 0x20#8
  | .getMode => 0x21#8
  | .getFan => 0x22#8
  | .getTarget => 0x23#8
  | .getCurrent => 0x24#8
  | .getPending => 0x25#8

end Sys2Proof
end

