-- ==== Sys2Proof/Decode.lean ====
section
/-!
DEFINITION. The command port's decoder, total on every command word and rejecting by name, and the encoder
(30_encoding.md R81 to R85). The three fields as one number: op in bits 7:0, arg in bits 39:8, data in bits 103:40 (log 9).
-/
namespace Sys2Proof

/-- The command whose fields are the bits of `w`: op lowest, then arg, then data (log 9). -/
def Command.ofWord (w : BitVec 104) : Command where
  op := w.extractLsb' 0 8
  arg := w.extractLsb' 8 32
  data := w.extractLsb' 40 64

/-- The bits of a command, op lowest (log 9). -/
def Command.word (c : Command) : BitVec 104 :=
  c.op.setWidth 104 ||| c.arg.setWidth 104 <<< 8 ||| c.data.setWidth 104 <<< 40

/-- The command of a table word: its low `nbits` bits, every bit above them 0. -/
def Command.ofTableWord (nbits w : Nat) : Command := Command.ofWord (BitVec.ofNat 104 (w % 2 ^ nbits))

/-- Frame byte i = data[8i+7:8i] (R83). -/
def frameOfData (d : BitVec 64) : Frame :=
  #v[d.extractLsb' 0 8, d.extractLsb' 8 8, d.extractLsb' 16 8, d.extractLsb' 24 8,
    d.extractLsb' 32 8, d.extractLsb' 40 8, d.extractLsb' 48 8, d.extractLsb' 56 8]

/-- The data operand that holds a frame, byte 0 least significant (R83). -/
def dataOfFrame (f : Frame) : BitVec 64 :=
  f[0].setWidth 64 ||| f[1].setWidth 64 <<< 8 ||| f[2].setWidth 64 <<< 16 ||| f[3].setWidth 64 <<< 24 |||
    f[4].setWidth 64 <<< 32 ||| f[5].setWidth 64 <<< 40 ||| f[6].setWidth 64 <<< 48 ||| f[7].setWidth 64 <<< 56

/-- arg[0] as a role (R83). -/
def roleOfArg (arg : Word) : Role := if arg.extractLsb' 0 1 = 1#1 then .secondary else .primary

/-- Why a command word is no command of the map. -/
inductive DecodeReject where
  /-- The opcode is assigned to no command (R82, R85): the core then acts by R201. -/
  | unassignedOpcode (op : Byte)
  deriving DecidableEq, Repr

/-- The opcode alone selects the command (R81, R82); operand bits outside the fields of R83 are ignored (R84). -/
def decode (c : Command) : Except DecodeReject Instr :=
  match c.op with
  | 0x01#8 => .ok (.attach (roleOfArg c.arg))
  | 0x02#8 => .ok .poll
  | 0x03#8 => .ok (.wait c.arg)
  | 0x04#8 => .ok .send
  | 0x05#8 => .ok (.decodeExt (c.arg.extractLsb' 0 4) (frameOfData c.data))
  | 0x10#8 => .ok (.setPwr (c.arg.extractLsb' 0 1))
  | 0x11#8 => .ok (.setMode (c.arg.extractLsb' 0 3))
  | 0x12#8 => .ok (.setFan (c.arg.extractLsb' 0 3))
  | 0x13#8 => .ok (.setTemp (c.arg.extractLsb' 0 8))
  | 0x20#8 => .ok .getPower
  | 0x21#8 => .ok .getMode
  | 0x22#8 => .ok .getFan
  | 0x23#8 => .ok .getTarget
  | 0x24#8 => .ok .getCurrent
  | 0x25#8 => .ok .getPending
  | op => .error (.unassignedOpcode op)

/-- The operand fields of R83 placed in `arg`, the bits outside them 0. -/
def Instr.arg : Instr → Word
  | .attach role => role.code.setWidth 32
  | .wait timeoutMs => timeoutMs
  | .decodeExt len _ => len.setWidth 32
  | .setPwr on => on.setWidth 32
  | .setMode code => code.setWidth 32
  | .setFan code => code.setWidth 32
  | .setTemp celsius => celsius.setWidth 32
  | .poll => 0#32
  | .send => 0#32
  | .getPower => 0#32
  | .getMode => 0#32
  | .getFan => 0#32
  | .getTarget => 0#32
  | .getCurrent => 0#32
  | .getPending => 0#32

/-- `data` is used by DECODE_EXT alone (R81). -/
def Instr.data : Instr → BitVec 64
  | .decodeExt _ frame => dataOfFrame frame
  | .attach _ => 0#64
  | .poll => 0#64
  | .wait _ => 0#64
  | .send => 0#64
  | .setPwr _ => 0#64
  | .setMode _ => 0#64
  | .setFan _ => 0#64
  | .setTemp _ => 0#64
  | .getPower => 0#64
  | .getMode => 0#64
  | .getFan => 0#64
  | .getTarget => 0#64
  | .getCurrent => 0#64
  | .getPending => 0#64

/-- The command a host presents for an instruction, reserved bits 0 (R81 to R83). -/
def encode (i : Instr) : Command := ⟨i.opcode, i.arg, i.data⟩

/-- The operand bits the opcode reads (R83), as a mask over `arg`. -/
def argMask (op : Byte) : Word :=
  match op with
  | 0x01#8 => 0x1#32
  | 0x03#8 => 0xFFFFFFFF#32
  | 0x05#8 => 0xF#32
  | 0x10#8 => 0x1#32
  | 0x11#8 => 0x7#32
  | 0x12#8 => 0x7#32
  | 0x13#8 => 0xFF#32
  | _ => 0x0#32

/-- A command with every reserved operand bit cleared (R84). -/
def Command.clearReserved (c : Command) : Command where
  op := c.op
  arg := c.arg &&& argMask c.op
  data := if c.op = 0x05#8 then c.data else 0#64

/-- The instruction the decoder reads from a table word, none where it rejects. -/
def decodeTableWord (nbits w : Nat) : Option Instr := (decode (Command.ofTableWord nbits w)).toOption

end Sys2Proof
end

