-- ==== Sys2Proof/Config.lean ====
section
/-!
DEFINITION. The configuration record of 00_scope.md R8 to R13: the named parameters with the document's values, and the
three OPEN parameters as free values. A machine is given one at launch (70_reset_and_hazards.md R243) and keeps it.
`FRAME_LEN` and `CLK_W` are fixed (R8, R11) and stand in `Sys2Proof.Frame` and `Sys2Proof.Ms`.
-/
namespace Sys2Proof

/-- The parameters of R8, R9, R10, R12 and R13, under the spec's names. -/
structure Config where
  syncMarker : Byte
  endMarker : Byte
  minTxDelayMs : Ms
  tgtTempOffset : Byte
  tgtRawMax : Byte
  roomTempOffset : Byte
  roomRawMax : Byte
  roleCodePrimary : Byte
  roleCodeSecondary : Byte
  pollDrain : Bool
  currentTempInit : Byte
  deriving DecidableEq, Repr

/-- `ROLE_CODE_PRIMARY`, OPEN (R10): a free value, no proof can see which (log 2). -/
opaque Config.openRoleCodePrimary : Byte

/-- `ROLE_CODE_SECONDARY`, OPEN (R10): a free value; nothing says it differs from the primary's (log 2). -/
opaque Config.openRoleCodeSecondary : Byte

/-- `CURRENT_TEMP_INIT`, OPEN (R13): a free value; a model must not assume 0 (R27, log 2). -/
opaque Config.openCurrentTempInit : Byte

/-- The default column of R8, R9 and R12, normative for this hardware, with the OPEN parameters free. -/
def Config.documented : Config where
  syncMarker := 0xFE#8
  endMarker := 0xEB#8
  minTxDelayMs := 60#32
  tgtTempOffset := 16#8
  tgtRawMax := 14#8
  roomTempOffset := 0#8
  roomRawMax := 50#8
  roleCodePrimary := Config.openRoleCodePrimary
  roleCodeSecondary := Config.openRoleCodeSecondary
  pollDrain := false
  currentTempInit := Config.openCurrentTempInit

end Sys2Proof
end

