-- ==== Sys2Proof/Machine/State.lean ====
section
/-!
DEFINITION. The state of the core and of its environment as plain data (10_state.md R20, R43), the reasons a step can
stop, and the state after reset (70_reset_and_hazards.md R241).
-/
namespace Sys2Proof.Machine

/-- SYNC_STATE (R30). -/
inductive SyncState where
  | scanning
  | collecting
  deriving DecidableEq, Repr

/-- OP_STATE (R33): IDLE = 0, WAIT_RX = 1, WAIT_TX = 2; value 3 is unused and unreachable. -/
inductive OpState where
  | idle
  | waitRx
  | waitTx
  | unused
  deriving DecidableEq, Repr

/-- One item of the TX log (R57). -/
inductive TxItem where
  | byte (b : Byte)
  | flush
  deriving DecidableEq, Repr

/-- The event codes of R212. -/
inductive EventCode where
  | discard | syncLoss | frameOk | tgtRange | roomRange | badLen | timeout | unattached | overflow | badCmd | reattach
  deriving DecidableEq, Repr

/-- The code column of R212. -/
def EventCode.toByte : EventCode → Byte
  | .discard => 0x01#8
  | .syncLoss => 0x02#8
  | .frameOk => 0x03#8
  | .tgtRange => 0x04#8
  | .roomRange => 0x05#8
  | .badLen => 0x06#8
  | .timeout => 0x07#8
  | .unattached => 0x08#8
  | .overflow => 0x09#8
  | .badCmd => 0x0A#8
  | .reattach => 0x0B#8

/-- A record of the event log (R211): a code of R212 and its info byte. -/
structure Event where
  code : EventCode
  info : Byte
  deriving DecidableEq, Repr

/-- One turn of an agent (R7, R17): the core's block step, or what may happen between block steps (log 3). -/
inductive Turn where
  /-- The core takes a block step. -/
  | core
  /-- The RX environment appends bytes to RXQ (R56). -/
  | rxArrive (bytes : List Byte)
  /-- The clock advances NOW_MS by some milliseconds (R17, R220). -/
  | clockAdvance (ms : Nat)
  /-- The host presents its next command on the port (R81, R190). -/
  | hostPresent (c : Command)
  /-- The reset input is asserted (R240). -/
  | resetAssert
  /-- A second host drives the core without synchronisation, which a model must refuse (R62). -/
  | secondHost
  deriving DecidableEq, Repr

/-- Why the machine stops: never by an error of the spec, since no condition of the core is fatal (R210, R214). -/
inductive Fault where
  /-- Raised by a core turn while OP_STATE holds value 3, for which R33 gives no behaviour and which no run reaches
  (R40). Safe: the machine stops where the spec says nothing (log 7). -/
  | opStateUnused
  deriving DecidableEq, Repr

/-- Why the model gives no meaning. -/
inductive Refusal where
  /-- Raised by exec for an instruction without a meaning yet; no arm of this model raises it. Safe. -/
  | notModelled (mnemonic : String)
  /-- Raised by a `secondHost` turn: R62 puts the composition outside the contract and asks a model to refuse it.
  Safe (log 8). -/
  | secondHost
  deriving DecidableEq, Repr

/-- The registers of R20, the environment's state of R43, and the model's own fields (port, agenda, cfg). -/
structure State where
  /-- ON_OFF (R22). -/
  onOff : BitVec 1
  /-- MODE, the raw code (R23). -/
  mode : BitVec 3
  /-- FAN, the raw code (R24). -/
  fan : BitVec 3
  /-- TARGET_TEMP, whole °C (R25). -/
  targetTemp : Byte
  /-- CURRENT_TEMP, whole °C (R27). -/
  currentTemp : Byte
  /-- PENDING (R28). -/
  pending : Bool
  /-- TX_SLOT[0..7] (R29). -/
  txSlot : Frame
  /-- SYNC_STATE (R30). -/
  syncState : SyncState
  /-- RX_COUNT (R31). -/
  rxCount : BitVec 4
  /-- RX_BUF[0..7] (R32). -/
  rxBuf : Frame
  /-- LAST_RX_MS (R36). -/
  lastRxMs : Ms
  /-- ATTACHED (R37). -/
  attached : Bool
  /-- ROLE (R38). -/
  role : Role
  /-- OP_STATE (R33). -/
  opState : OpState
  /-- WAIT_START_MS (R34). -/
  waitStartMs : Ms
  /-- WAIT_TIMEOUT_MS (R34). -/
  waitTimeoutMs : Ms
  /-- TX_WAIT_START_MS (R35). -/
  txWaitStartMs : Ms
  /-- TX_WAIT_LEN_MS (R35). -/
  txWaitLenMs : Ms
  /-- RESULT (R39). -/
  result : Word
  /-- RXQ, the bytes received and not yet consumed, oldest first (R43, R56). -/
  rxq : List Byte
  /-- NOW_MS (R43, R220). -/
  nowMs : Ms
  /-- The TX log, oldest first (R43, R57). -/
  txLog : List TxItem
  /-- The event log, oldest first (R43, R211). -/
  evLog : List Event
  /-- The commands the host has presented and the core has not accepted, oldest first (R190; log 5). -/
  port : List Command
  /-- The turns to come before the core moves by itself, first one first (log 3). -/
  agenda : List Turn
  /-- The configuration the machine was launched with (R243; log 1). -/
  cfg : Config
  deriving DecidableEq, Repr

/-- The machine right after reset (R241), launched with the documented configuration (R243), empty logs (R43), and an
environment in which nothing has arrived (log 4) and nothing is presented (log 5). -/
def State.reset : State where
  onOff := 0#1
  mode := 5#3
  fan := 0#3
  targetTemp := 22#8
  currentTemp := Config.documented.currentTempInit
  pending := false
  txSlot := Vector.replicate 8 0#8
  syncState := .scanning
  rxCount := 0#4
  rxBuf := Vector.replicate 8 0#8
  lastRxMs := 0#32
  attached := false
  role := .primary
  opState := .idle
  waitStartMs := 0#32
  waitTimeoutMs := 0#32
  txWaitStartMs := 0#32
  txWaitLenMs := 0#32
  result := 0#32
  rxq := []
  nowMs := 0#32
  txLog := []
  evLog := []
  port := []
  agenda := []
  cfg := Config.documented

end Sys2Proof.Machine
end

