-- ==== Sys2Proof/Machine/Flags.lean ====
section
/-!
DEFINITION. The core has no condition codes (10_state.md R41). Its conditions are the boolean results of commands (R203)
and the elapsed-time tests (R15, R169), which stand here.
-/
namespace Sys2Proof.Machine

/-- A boolean result: 1 for success, 0 for failure (R203). -/
def boolResult (b : Bool) : Word := if b then 1#32 else 0#32

/-- `now -w since >= limit`, the wrapping 32-bit difference compared unsigned (R15, R169). -/
def elapsedAtLeast (now since limit : Ms) : Bool := decide (limit ≤ now - since)

end Sys2Proof.Machine
end

