-- ==== Sys2Proof/WellFormed.lean ====
section
/-!
DEFINITION. Which commands have their operands within the legal values of 30_encoding.md R83. A command outside them
is still decoded and executed, by the rule for illegal operands (43_host_control.md R202); this check is the line between the two.
-/
namespace Sys2Proof

/-- SETMODE's legal codes, 0 to 5 (R79, R83). -/
def modeCodeLegal (code : BitVec 3) : Bool := code.toNat ≤ 5

/-- SETFAN's legal codes, 0 to 4 (R80, R83). -/
def fanCodeLegal (code : BitVec 3) : Bool := code.toNat ≤ 4

/-- The legal-values column of R83; every other operand's type is exactly its legal range. -/
def Instr.wellFormed : Instr → Bool
  | .setMode code => modeCodeLegal code
  | .setFan code => fanCodeLegal code
  | .attach _ => true
  | .poll => true
  | .wait _ => true
  | .send => true
  | .decodeExt _ _ => true
  | .setPwr _ => true
  | .setTemp _ => true
  | .getPower => true
  | .getMode => true
  | .getFan => true
  | .getTarget => true
  | .getCurrent => true
  | .getPending => true

end Sys2Proof
end

