-- ==== Sys2Proof/Machine/Operands.lean ====
section
/-!
DEFINITION. The operands of the codec: the fields of an inbound frame (30_encoding.md R71 to R75) and of an outbound
frame (R76), which differ on purpose (R77), and the checksum (41_codec.md R144).
-/
namespace Sys2Proof.Machine

/-- Inbound byte 3 bit 0 (R72, R131). -/
def inPower (f : Frame) : BitVec 1 := f[3].extractLsb' 0 1

/-- Inbound byte 3 bits 3:1 (R72, R132). -/
def inMode (f : Frame) : BitVec 3 := f[3].extractLsb' 1 3

/-- Inbound byte 3 bits 6:4 (R72, R133). -/
def inFan (f : Frame) : BitVec 3 := f[3].extractLsb' 4 3

/-- `raw_t`, inbound byte 4 bits 6:0 (R73, R134), zero-extended. -/
def inTargetRaw (f : Frame) : Byte := (f[4].extractLsb' 0 7).setWidth 8

/-- The controller-present bit, inbound byte 6 bit 0 (R74, R135). -/
def inPresent (f : Frame) : Bool := f[6].extractLsb' 0 1 == 1#1

/-- `raw_r`, inbound byte 6 bits 6:1 (R74, R135), zero-extended. -/
def inRoomRaw (f : Frame) : Byte := (f[6].extractLsb' 1 6).setWidth 8

/-- `clamp(x, lo, hi)` over mathematical integers (R15). -/
def clamp (x lo hi : Int) : Int := if x < lo then lo else if hi < x then hi else x

/-- Outbound byte 1: the role code (R140). -/
def outRole (cfg : Config) : Role → Byte
  | .primary => cfg.roleCodePrimary
  | .secondary => cfg.roleCodeSecondary

/-- Outbound byte 4: the clamp over integers, written as 8 bits (R141). -/
def outTemp (cfg : Config) (target : Byte) : Byte :=
  BitVec.ofInt 8 (clamp ((target.toNat : Int) - cfg.tgtTempOffset.toNat) 0 cfg.tgtRawMax.toNat)

/-- The 8-bit wraparound sum: add the zero-extended bytes, keep the low 8 bits (R144). -/
def checksum (bytes : List Byte) : Byte := BitVec.ofNat 8 (bytes.map BitVec.toNat).sum

/-- The first seven bytes of a frame, the ones its checksum covers (R144). -/
def leadingBytes (f : Frame) : List Byte := f.toList.take 7

/-- The outbound frame of the fields Encode reads (R76, R139, R145). -/
def outboundFrame (cfg : Config) (role : Role) (onOff : BitVec 1) (mode fan : BitVec 3) (target : Byte) : Frame :=
  let b0 := cfg.syncMarker
  let b1 := outRole cfg role
  let b2 := onOff.setWidth 8
  let b3 := mode.setWidth 8
  let b4 := outTemp cfg target
  let b5 := fan.setWidth 8
  let b6 := 0x00#8
  #v[b0, b1, b2, b3, b4, b5, b6, checksum [b0, b1, b2, b3, b4, b5, b6]]

end Sys2Proof.Machine
end

