-- ==== Sys2Proof/Machine/Ops.lean ====
section
/-!
DEFINITION. The operations the commands share: the primitives of 00_scope.md R16, the rejection of a command (43_host_control.md
R191, R194, R202), and reset (70_reset_and_hazards.md R240). There is no exception to take or to return from (60_exceptions.md R214, R215):
`reject` is the only reaction to an error.
-/
namespace Sys2Proof.Machine

/-- `emit EV(code, info)`: append a record to the event log (R211). -/
def State.emit (code : EventCode) (info : Byte) (s : State) : State :=
  { s with evLog := s.evLog ++ [⟨code, info⟩] }

/-- `RESULT <- v` (R16, R39). -/
def State.setResult (v : Word) (s : State) : State := { s with result := v }

/-- A command that fails: one event, RESULT 0, nothing else (R194, R202, R210). -/
def State.reject (code : EventCode) (info : Byte) (s : State) : State := (s.emit code info).setResult 0#32

/-- The attachment check of R194: `body` runs only on an attached link. -/
def State.whenAttached (op : Byte) (body : State → State) (s : State) : State :=
  if s.attached then body s else s.reject .unattached op

/-- `tx_write(f[0..7])`: append the eight bytes, byte 0 first (R57). -/
def State.txWrite (f : Frame) (s : State) : State := { s with txLog := s.txLog ++ f.toList.map .byte }

/-- `tx_flush()`: append one FLUSH marker (R57). -/
def State.txFlush (s : State) : State := { s with txLog := s.txLog ++ [.flush] }

/-- Reset: every register of R20 to its value of R241 in one step, any busy command abandoned; RXQ, NOW_MS and both logs
are untouched (R240), and so are the host's commands and the turns to come (log 11). -/
def State.applyReset (s : State) : State :=
  { s with
    onOff := 0#1
    mode := 5#3
    fan := 0#3
    targetTemp := 22#8
    currentTemp := s.cfg.currentTempInit
    pending := false
    txSlot := Vector.replicate 8 0#8
    syncState := .scanning
    rxCount := 0#4
    rxBuf := Vector.replicate 8 0#8
    lastRxMs := 0#32
    attached := false
    role := .primary
    opState := .idle
    waitStartMs := 0#32
    waitTimeoutMs := 0#32
    txWaitStartMs := 0#32
    txWaitLenMs := 0#32
    result := 0#32 }

end Sys2Proof.Machine
end

