-- ==== Sys2Proof/Machine/HostControl.lean ====
section
/-!
DEFINITION. Host control (43_host_control.md): ATTACH (R192, R193), the read accessors (R195 to R200), and the unassigned
opcode (R201).
-/
namespace Sys2Proof.Machine

/-- ATTACH (R192); a second one changes nothing (R193). -/
def execAttach (role : Role) (s : State) : Host.Outcome State Fault Refusal :=
  .next (if s.attached then s.reject .reattach (role.code.setWidth 8)
    else { s with role := role, attached := true }.setResult 1#32)

/-- GET_POWER (R195). -/
def execGetPower (s : State) : Host.Outcome State Fault Refusal := .next (s.setResult (s.onOff.setWidth 32))

/-- GET_MODE (R196). -/
def execGetMode (s : State) : Host.Outcome State Fault Refusal := .next (s.setResult (s.mode.setWidth 32))

/-- GET_FAN (R197). -/
def execGetFan (s : State) : Host.Outcome State Fault Refusal := .next (s.setResult (s.fan.setWidth 32))

/-- GET_TARGET (R198), unclamped (R165). -/
def execGetTarget (s : State) : Host.Outcome State Fault Refusal := .next (s.setResult (s.targetTemp.setWidth 32))

/-- GET_CURRENT (R199). -/
def execGetCurrent (s : State) : Host.Outcome State Fault Refusal := .next (s.setResult (s.currentTemp.setWidth 32))

/-- GET_PENDING (R200). -/
def execGetPending (s : State) : Host.Outcome State Fault Refusal := .next (s.setResult (boolResult s.pending))

/-- An unassigned opcode: RESULT 0 and EV_BADCMD, attached or not (R201). -/
def State.unassigned (op : Byte) (s : State) : State := s.reject .badCmd op

end Sys2Proof.Machine
end

