-- ==== Sys2Proof/Machine/Codec.lean ====
section
/-!
DEFINITION. The Field Codec (41_codec.md): Decode (R130 to R137), Encode (R139 to R145) and DECODE_EXT (R147).
-/
namespace Sys2Proof.Machine

/-- Target temperature, stale on invalid (R134). -/
def State.decodeTarget (f : Frame) (s : State) : State :=
  let raw := inTargetRaw f
  if raw ≤ s.cfg.tgtRawMax then { s with targetTemp := raw + s.cfg.tgtTempOffset } else s.emit .tgtRange raw

/-- Room temperature, gated by the controller-present bit and stale on invalid (R135). -/
def State.decodeRoom (f : Frame) (s : State) : State :=
  let raw := inRoomRaw f
  if inPresent f then
    if raw ≤ s.cfg.roomRawMax then { s with currentTemp := raw + s.cfg.roomTempOffset } else s.emit .roomRange raw
  else s

/-- `Decode(f[0..7])`, in the order of its effects (R137). -/
def State.decodeFrame (f : Frame) (s : State) : State :=
  ({ s with onOff := inPower f, mode := inMode f, fan := inFan f }.decodeTarget f).decodeRoom f

/-- `Encode()`: the outbound frame of the registers as they stand (R139, R145). -/
def State.encodeFrame (s : State) : Frame := outboundFrame s.cfg s.role s.onOff s.mode s.fan s.targetTemp

/-- DECODE_EXT (R147): attachment first, then the length, then Decode without a marker check. -/
def execDecodeExt (len : BitVec 4) (frame : Frame) (s : State) : Host.Outcome State Fault Refusal :=
  .next (s.whenAttached (Instr.decodeExt len frame).opcode fun s =>
    if len = 8#4 then (s.decodeFrame frame).setResult 1#32 else s.reject .badLen (len.setWidth 8))

end Sys2Proof.Machine
end

