-- ==== Sys2Proof/Machine/Scheduler.lean ====
section
/-!
DEFINITION. The Transmit Scheduler (42_scheduler.md): Stage (R160, R161), the setters (R162 to R165), SEND's issue and busy
steps (R166, R167) and Transmit (R168).
-/
namespace Sys2Proof.Machine

/-- `Stage()`: the slot takes the encode of the registers as they now stand (R161). -/
def State.stage (s : State) : State := { s with txSlot := s.encodeFrame, pending := true }

/-- SETPWR (R162). -/
def execSetPwr (on : BitVec 1) (s : State) : Host.Outcome State Fault Refusal :=
  .next (s.whenAttached (Instr.setPwr on).opcode fun s =>
    let s := s.setResult 0#32
    if on = s.onOff then s else { s with onOff := on }.stage)

/-- SETMODE (R163): operand legality (R202) before attachment (R191). -/
def execSetMode (code : BitVec 3) (s : State) : Host.Outcome State Fault Refusal :=
  .next (if modeCodeLegal code then
    s.whenAttached (Instr.setMode code).opcode fun s =>
      let s := s.setResult 0#32
      if code = s.mode then s else { s with mode := code }.stage
  else s.reject .badCmd (Instr.setMode code).opcode)

/-- SETFAN (R164): operand legality (R202) before attachment (R191). -/
def execSetFan (code : BitVec 3) (s : State) : Host.Outcome State Fault Refusal :=
  .next (if fanCodeLegal code then
    s.whenAttached (Instr.setFan code).opcode fun s =>
      let s := s.setResult 0#32
      if code = s.fan then s else { s with fan := code }.stage
  else s.reject .badCmd (Instr.setFan code).opcode)

/-- SETTEMP (R165): stored as given, clamped only by encode (R141). -/
def execSetTemp (celsius : Byte) (s : State) : Host.Outcome State Fault Refusal :=
  .next (s.whenAttached (Instr.setTemp celsius).opcode fun s =>
    let s := s.setResult 0#32
    if celsius = s.targetTemp then s else { s with targetTemp := celsius }.stage)

/-- `Transmit()`: write, flush, clear the flag; the slot keeps its content (R168). -/
def State.transmit (s : State) : State := { (s.txWrite s.txSlot).txFlush with pending := false }

/-- SEND, issue step on an attached link (R166): the wait latches write no RESULT. -/
def State.sendIssue (s : State) : State :=
  if s.pending then
    if elapsedAtLeast s.nowMs s.lastRxMs s.cfg.minTxDelayMs then s.transmit.setResult 1#32
    else
      { s with
        txWaitStartMs := s.nowMs
        txWaitLenMs := s.cfg.minTxDelayMs - (s.nowMs - s.lastRxMs)
        opState := .waitTx }
  else s.setResult 0#32

/-- SEND (R166). -/
def execSend (s : State) : Host.Outcome State Fault Refusal :=
  .next (s.whenAttached Instr.send.opcode State.sendIssue)

/-- SEND, busy step (R167). -/
def State.sendBusy (s : State) : State :=
  if elapsedAtLeast s.nowMs s.txWaitStartMs s.txWaitLenMs then
    { s.transmit.setResult 1#32 with opState := .idle }
  else s

end Sys2Proof.Machine
end

