-- ==== Sys2Proof/Machine/Synchronizer.lean ====
section
/-!
DEFINITION. The Frame Synchronizer (40_synchronizer.md): the byte step (R100 to R105), POLL (R107), and WAIT's issue and
busy steps (R108, R109).
-/
namespace Sys2Proof.Machine

/-- Back to SCANNING with no byte held (R103, R104, R105). -/
def State.rescan (s : State) : State := { s with syncState := .scanning, rxCount := 0#4 }

/-- SCANNING: the marker starts a candidate, any other byte is lost (R101). -/
def State.scanByte (b : Byte) (s : State) : State :=
  if b = s.cfg.syncMarker then { s with rxBuf := s.rxBuf.set 0 b, rxCount := 1#4, syncState := .collecting }
  else s.emit .discard b

/-- COLLECTING: `RX_BUF[RX_COUNT] <- b; RX_COUNT <- RX_COUNT + 1` (R102). -/
def State.appendByte (b : Byte) (s : State) : State :=
  { s with rxBuf := s.rxBuf.setIfInBounds s.rxCount.toNat b, rxCount := s.rxCount + 1#4 }

/-- Acceptance: the event, then Decode of RX_BUF, then SCANNING and the timestamp (R103). -/
def State.acceptFrame (s : State) : State :=
  let t := ((s.emit .frameOk 0x00#8).decodeFrame s.rxBuf).rescan
  { t with lastRxMs := s.nowMs }

/-- Sync loss: the whole candidate is discarded, nothing is scanned again (R104). -/
def State.loseSync (s : State) : State := (s.emit .syncLoss s.rxBuf[7]).rescan

/-- The capacity guard: the arriving byte is discarded (R105). -/
def State.guardOverflow (s : State) : State := (s.emit .overflow (s.rxCount.setWidth 8)).rescan

/-- `SyncByte(b)`: the new state, and whether a frame was accepted (R100). -/
def State.syncByte (b : Byte) (s : State) : State × Bool :=
  match s.syncState with
  | .scanning => (s.scanByte b, false)
  | .collecting =>
    if s.rxCount.toNat = 0 ∨ 8 ≤ s.rxCount.toNat then (s.guardOverflow, false)
    else
      let t := s.appendByte b
      if t.rxCount.toNat < 8 then (t, false)
      else if t.rxBuf[7] = t.cfg.endMarker then (t.acceptFrame, true)
      else (t.loseSync, false)

/-- The receive loop of POLL and of WAIT's busy step over the bytes `q` of RXQ (R107, R109): pop, SyncByte, and stop
after an accepted frame unless `drain`. The Bool says whether a frame was accepted, `got` that one was before. -/
def State.consume (drain got : Bool) : List Byte → State → State × Bool
  | [], s => ({ s with rxq := [] }, got)
  | b :: rest, s =>
    let r := s.syncByte b
    let got := got || r.2
    if got && !drain then ({ r.1 with rxq := rest }, true) else State.consume drain got rest r.1

/-- The receive loop over the bytes available now (R56). -/
def State.receive (drain : Bool) (s : State) : State × Bool := s.consume drain false s.rxq

/-- POLL on an attached link (R107). -/
def State.poll (s : State) : State :=
  let r := s.receive s.cfg.pollDrain
  r.1.setResult (boolResult r.2)

/-- POLL (R107). -/
def execPoll (s : State) : Host.Outcome State Fault Refusal :=
  .next (s.whenAttached Instr.poll.opcode State.poll)

/-- WAIT, issue step: latch the start and the timeout; RESULT is not written (R108). -/
def execWait (timeoutMs : Ms) (s : State) : Host.Outcome State Fault Refusal :=
  .next (s.whenAttached (Instr.wait timeoutMs).opcode fun s =>
    { s with waitStartMs := s.nowMs, waitTimeoutMs := timeoutMs, opState := .waitRx })

/-- WAIT, busy step: the available bytes first, then the timeout (R109). -/
def State.waitBusy (s : State) : State :=
  let r := s.receive false
  if r.2 then { r.1.setResult 1#32 with opState := .idle }
  else if elapsedAtLeast s.nowMs s.waitStartMs s.waitTimeoutMs then
    { r.1.reject .timeout 0x00#8 with opState := .idle }
  else r.1

end Sys2Proof.Machine
end

