-- ==== Sys2Proof/Machine/Dispatch.lean ====
section
/-!
DEFINITION. One arm a command of the opcode map (30_encoding.md R82), each a call of its meaning.
-/
namespace Sys2Proof.Machine

def exec (i : Instr) (s : State) : Host.Outcome State Fault Refusal :=
  match i with
  | .attach role => Sys2Proof.Machine.execAttach role s
  | .poll => Sys2Proof.Machine.execPoll s
  | .wait timeoutMs => Sys2Proof.Machine.execWait timeoutMs s
  | .send => Sys2Proof.Machine.execSend s
  | .decodeExt len frame => Sys2Proof.Machine.execDecodeExt len frame s
  | .setPwr on => Sys2Proof.Machine.execSetPwr on s
  | .setMode code => Sys2Proof.Machine.execSetMode code s
  | .setFan code => Sys2Proof.Machine.execSetFan code s
  | .setTemp celsius => Sys2Proof.Machine.execSetTemp celsius s
  | .getPower => Sys2Proof.Machine.execGetPower s
  | .getMode => Sys2Proof.Machine.execGetMode s
  | .getFan => Sys2Proof.Machine.execGetFan s
  | .getTarget => Sys2Proof.Machine.execGetTarget s
  | .getCurrent => Sys2Proof.Machine.execGetCurrent s
  | .getPending => Sys2Proof.Machine.execGetPending s

end Sys2Proof.Machine
end

