-- ==== Sys2Proof/Machine/Turns.lean ====
section
/-!
DEFINITION. What each agent's turn does (00_scope.md R6, R7, R17): the core's block step, arriving bytes, the clock, the host's
next command, the reset input, and the second host that R62 excludes. Step.lean only picks the turn.
-/
namespace Sys2Proof.Machine

/-- The command the port accepts next, and the state with it taken (R81, R190). -/
def State.fetch (s : State) : Option (Command × State) :=
  match s.port with
  | [] => none
  | c :: rest => some (c, { s with port := rest })

/-- Acceptance of a command (R191): the opcode is looked up first; an unassigned one is handled by R201. -/
def State.acceptCommand (c : Command) (s : State) : Host.Outcome State Fault Refusal :=
  match decode c with
  | .ok i => exec i s
  | .error (.unassignedOpcode op) => .next (s.unassigned op)

/-- The core's block step (R6, R190): in IDLE the next command, or nothing where none is presented (log 6); in WAIT_RX and
WAIT_TX one busy step (R109, R167). -/
def State.coreTurn (s : State) : Host.Outcome State Fault Refusal :=
  match s.opState with
  | .idle =>
    match s.fetch with
    | some (c, t) => t.acceptCommand c
    | none => .next s
  | .waitRx => .next s.waitBusy
  | .waitTx => .next s.sendBusy
  | .unused => .fault .opStateUnused

/-- The RX environment appends bytes at the tail of RXQ (R56). -/
def State.rxArrive (bytes : List Byte) (s : State) : State := { s with rxq := s.rxq ++ bytes }

/-- The clock advances, modulo 2^32 (R11, R17, R220). -/
def State.clockAdvance (ms : Nat) (s : State) : State := { s with nowMs := s.nowMs + BitVec.ofNat 32 ms }

/-- The host presents a command; while the core is busy it is held, not lost (R190). -/
def State.hostPresent (c : Command) (s : State) : State := { s with port := s.port ++ [c] }

/-- One agent's turn. -/
def State.turn (t : Turn) (s : State) : Host.Outcome State Fault Refusal :=
  match t with
  | .core => s.coreTurn
  | .rxArrive bytes => .next (s.rxArrive bytes)
  | .clockAdvance ms => .next (s.clockAdvance ms)
  | .hostPresent c => .next (s.hostPresent c)
  | .resetAssert => .next s.applyReset
  | .secondHost => .refused .secondHost

/-- The state in which the next step accepts `c`: an idle core, `c` first on the port, no other turn before (log 12). -/
def State.withCommand (c : Command) (s : State) : State :=
  { s with agenda := [], opState := .idle, port := c :: s.port }

end Sys2Proof.Machine
end

