-- ==== Sys2Proof/Machine/Step.lean ====
section
/-!
DEFINITION. One step of the whole machine: the first turn of the agenda, or the core's block step where the agenda is
empty (00_scope.md R6, R7, R17; log 3).
-/
namespace Sys2Proof.Machine

/-- One turn. The turn taken leaves the agenda. -/
def step (s : State) : Host.Outcome State Fault Refusal :=
  match s.agenda with
  | [] => s.coreTurn
  | t :: rest => { s with agenda := rest }.turn t

/-- `s` with the command of a table word where `step` takes its next command (log 12). -/
def State.withFetchWord (s : State) (nbits w : Nat) : State := s.withCommand (Command.ofTableWord nbits w)

end Sys2Proof.Machine
end

