-- ==== Sys2Proof/Machine/Assembler.lean ====
section
/-!
DEFINITION. The assembler's lines (30_encoding.md R87) and pseudo-instructions (R88), over a line's characters. It stands beside the
machine: the core runs commands, however the host came by them (lexical choices: log 14).
-/
namespace Sys2Proof.Machine

/-- What a line assembles to (R87). -/
inductive AsmResult where
  /-- A blank line or a comment. -/
  | nothing
  /-- One command. -/
  | emits (c : Command)
  /-- An assembly error; nothing is emitted. -/
  | error
  deriving DecidableEq, Repr

/-- `;` starts a comment (R87). -/
def stripComment (line : List Char) : List Char := line.takeWhile (· ≠ ';')

/-- The words of a line, separated by spaces; `cur` is the word begun, last character first. -/
def splitWords (cur : List Char) : List Char → List (List Char)
  | [] => if cur = [] then [] else [cur.reverse]
  | c :: cs =>
    if c = ' ' then if cur = [] then splitWords [] cs else cur.reverse :: splitWords [] cs
    else splitWords (c :: cur) cs

/-- The value of a digit, hexadecimal digits of either case (log 14). -/
def digitValue (c : Char) : Option Nat :=
  let n := c.toNat
  if 48 ≤ n ∧ n ≤ 57 then some (n - 48)
  else if 65 ≤ n ∧ n ≤ 70 then some (n - 55)
  else if 97 ≤ n ∧ n ≤ 102 then some (n - 87)
  else none

/-- The digits after the ones worth `acc`, each below `base`. -/
def parseDigits (base acc : Nat) : List Char → Option Nat
  | [] => some acc
  | c :: cs =>
    match digitValue c with
    | some d => if d < base then parseDigits base (base * acc + d) cs else none
    | none => none

/-- Numbers are decimal or `0x` hexadecimal (R87). -/
def parseNumber : List Char → Option Nat
  | [] => none
  | '0' :: 'x' :: d :: ds => parseDigits 16 0 (d :: ds)
  | d :: ds => parseDigits 10 0 (d :: ds)

/-- A number that fits a field of `n` bits; one that does not is an assembly error (R87). -/
def fieldOperand (n : Nat) (w : List Char) : Option (BitVec n) :=
  match parseNumber w with
  | some v => if v < 2 ^ n then some (BitVec.ofNat n v) else none
  | none => none

/-- `0 | 1 | PRIMARY | SECONDARY` (R87, R88). -/
def roleOperand (w : List Char) : Option Role :=
  if w = "PRIMARY".toList then some .primary
  else if w = "SECONDARY".toList then some .secondary
  else (fieldOperand 1 w).map fun b => if b = 1#1 then .secondary else .primary

/-- A mode name of R79, or the raw code. -/
def modeOperand (w : List Char) : Option (BitVec 3) :=
  if w = "UNKNOWN".toList then some ModeName.unknown.code
  else if w = "FAN".toList then some ModeName.fan.code
  else if w = "DRY".toList then some ModeName.dry.code
  else if w = "COOL".toList then some ModeName.cool.code
  else if w = "HEAT".toList then some ModeName.heat.code
  else if w = "AUTO".toList then some ModeName.auto.code
  else fieldOperand 3 w

/-- A fan name of R80, or the raw code. -/
def fanOperand (w : List Char) : Option (BitVec 3) :=
  if w = "AUTO".toList then some FanName.auto.code
  else if w = "QUIET".toList then some FanName.quiet.code
  else if w = "LOW".toList then some FanName.low.code
  else if w = "MEDIUM".toList then some FanName.medium.code
  else if w = "HIGH".toList then some FanName.high.code
  else fieldOperand 3 w

/-- Eight byte operands as a frame, byte 0 first (R87). -/
def frameOperand : List (List Char) → Option Frame
  | [w0, w1, w2, w3, w4, w5, w6, w7] => do
    let b0 ← fieldOperand 8 w0
    let b1 ← fieldOperand 8 w1
    let b2 ← fieldOperand 8 w2
    let b3 ← fieldOperand 8 w3
    let b4 ← fieldOperand 8 w4
    let b5 ← fieldOperand 8 w5
    let b6 ← fieldOperand 8 w6
    let b7 ← fieldOperand 8 w7
    some #v[b0, b1, b2, b3, b4, b5, b6, b7]
  | _ => none

/-- DECODE_EXT's operands: a length and eight bytes, or eight bytes for length 8 (R87, R88). -/
def decodeExtOperands (ops : List (List Char)) : Option Instr :=
  if ops.length = 8 then (frameOperand ops).map (.decodeExt 8#4)
  else match ops with
    | w :: ws => do
      let len ← fieldOperand 4 w
      let f ← frameOperand ws
      some (.decodeExt len f)
    | [] => none

/-- A line with one operand. -/
def oneOperand {α : Type} (read : List Char → Option α) (build : α → Instr) : List (List Char) → Option Instr
  | [w] => (read w).map build
  | _ => none

/-- A line without operands. -/
def noOperand (i : Instr) : List (List Char) → Option Instr
  | [] => some i
  | _ => none

/-- The instruction of a mnemonic and its operands (R87), the pseudo-instructions ON and OFF among them (R88). -/
def assembleWords (m : List Char) (ops : List (List Char)) : Option Instr :=
  if m = "ATTACH".toList then oneOperand roleOperand .attach ops
  else if m = "POLL".toList then noOperand .poll ops
  else if m = "WAIT".toList then oneOperand (fieldOperand 32) .wait ops
  else if m = "SEND".toList then noOperand .send ops
  else if m = "DECODE_EXT".toList then decodeExtOperands ops
  else if m = "SETPWR".toList then oneOperand (fieldOperand 1) .setPwr ops
  else if m = "SETMODE".toList then oneOperand modeOperand .setMode ops
  else if m = "SETFAN".toList then oneOperand fanOperand .setFan ops
  else if m = "SETTEMP".toList then oneOperand (fieldOperand 8) .setTemp ops
  else if m = "GET_POWER".toList then noOperand .getPower ops
  else if m = "GET_MODE".toList then noOperand .getMode ops
  else if m = "GET_FAN".toList then noOperand .getFan ops
  else if m = "GET_TARGET".toList then noOperand .getTarget ops
  else if m = "GET_CURRENT".toList then noOperand .getCurrent ops
  else if m = "GET_PENDING".toList then noOperand .getPending ops
  else if m = "ON".toList then noOperand (.setPwr 1#1) ops
  else if m = "OFF".toList then noOperand (.setPwr 0#1) ops
  else none

/-- One line of the assembler (R87). -/
def assembleLine (line : List Char) : AsmResult :=
  match splitWords [] (stripComment line) with
  | [] => .nothing
  | m :: ops =>
    match assembleWords m ops with
    | some i => .emits (encode i)
    | none => .error

end Sys2Proof.Machine
end

