-- ==== Sys2Proof/Machine/Scan.lean ====
section
/-!
DEFINITION. The characterisation of the synchronizer over a whole byte sequence (40_synchronizer.md R111): what the
sequence holds when read from SCANNING, and what each part does. The byte step is `State.syncByte`; claims compare the two.
-/
namespace Sys2Proof.Machine

/-- A part of a byte sequence read from SCANNING (R111). -/
inductive ScanItem where
  /-- A byte other than the marker, discarded. -/
  | discarded (b : Byte)
  /-- A candidate that ends with the end marker. -/
  | accepted (f : Frame)
  /-- A candidate of eight bytes that does not; it is discarded whole. -/
  | failed (f : Frame)
  /-- The partial candidate at the end of the sequence, its marker and what follows. -/
  | held (bytes : List Byte)
  deriving DecidableEq, Repr

/-- The scan of R111: a byte other than the marker is passed by; a marker takes the eight bytes from it, or all that are
left. -/
def scan (sync endm : Byte) : List Byte → List ScanItem
  | b0 :: b1 :: b2 :: b3 :: b4 :: b5 :: b6 :: b7 :: rest =>
    if b0 = sync then
      (if b7 = endm then .accepted #v[b0, b1, b2, b3, b4, b5, b6, b7]
        else .failed #v[b0, b1, b2, b3, b4, b5, b6, b7]) :: scan sync endm rest
    else .discarded b0 :: scan sync endm (b1 :: b2 :: b3 :: b4 :: b5 :: b6 :: b7 :: rest)
  | b :: rest => if b = sync then [.held (b :: rest)] else .discarded b :: scan sync endm rest
  | [] => []

/-- Whether an item is a produced frame. -/
def ScanItem.isFrame : ScanItem → Bool
  | .accepted _ => true
  | .discarded _ => false
  | .failed _ => false
  | .held _ => false

/-- `buf` with `bytes` written over it from index `i` on. -/
def overwrite (buf : Frame) (i : Nat) : List Byte → Frame
  | [] => buf
  | b :: rest => overwrite (buf.setIfInBounds i b) (i + 1) rest

/-- What a part of the sequence does to a machine that is SCANNING before it (R101 to R104, R111). -/
def ScanItem.apply (s : State) : ScanItem → State
  | .discarded b => s.emit .discard b
  | .accepted f =>
    let t := ({ s with rxBuf := f }.emit .frameOk 0x00#8).decodeFrame f
    { t with lastRxMs := s.nowMs }
  | .failed f => { s with rxBuf := f }.emit .syncLoss f[7]
  | .held bytes =>
    { s with rxBuf := overwrite s.rxBuf 0 bytes, rxCount := BitVec.ofNat 4 bytes.length, syncState := .collecting }

end Sys2Proof.Machine
end

