-- ==== Sys2Proof/Safety.lean ====
section
/-!
DEFINITION. What claims are about: a launch of the machine (70_reset_and_hazards.md R243), the invariants of 10_state.md R40
and of the rules that follow from them, and a safe run. No condition of the core is fatal (60_exceptions.md R210), so a
run is safe when every step has a next state and the invariants hold.
-/
namespace Sys2Proof.Machine

/-- A launch: every register at its reset value, the environment and the configuration as given (R43, R241, R243). -/
def State.launch (cfg : Config) (rxq : List Byte) (nowMs : Ms) (port : List Command) (agenda : List Turn) : State :=
  { State.reset with cfg := cfg, rxq := rxq, nowMs := nowMs, port := port, agenda := agenda }.applyReset

/-- R40 (a) and (b): no byte is held while SCANNING; while COLLECTING one to seven are, the first the sync marker. -/
def State.SyncInv (s : State) : Prop :=
  (s.syncState = .scanning → s.rxCount = 0#4) ∧
  (s.syncState = .collecting → 1 ≤ s.rxCount.toNat ∧ s.rxCount.toNat ≤ 7 ∧ s.rxBuf[0] = s.cfg.syncMarker)

/-- R40 (c), and what the wait latches mean: a busy core is attached; a SEND that waits has a frame pending, began less than
the minimum delay after the last accepted frame, and waits for the remainder (R166). -/
def State.OpInv (s : State) : Prop :=
  s.opState ≠ .unused ∧
  (s.opState ≠ .idle → s.attached = true) ∧
  (s.opState = .waitTx →
    s.pending = true ∧ s.txWaitStartMs - s.lastRxMs < s.cfg.minTxDelayMs ∧
    s.txWaitLenMs = s.cfg.minTxDelayMs - (s.txWaitStartMs - s.lastRxMs))

/-- R40 (d): a pending frame is the encode of some values of the fields, for the role the link was attached with. -/
def State.StagedInv (s : State) : Prop :=
  s.pending = true → s.attached = true ∧ ∃ onOff mode fan target, s.txSlot = outboundFrame s.cfg s.role onOff mode fan target

/-- R242: before the first ATTACH every register but RESULT holds its reset value. -/
def State.UnattachedInv (s : State) : Prop := s.attached = false → s = { s.applyReset with result := s.result }

/-- The TX log items of one transmission: the eight bytes, then the flush (R57, R60). -/
def txBlock (f : Frame) : List TxItem := f.toList.map .byte ++ [.flush]

/-- R60 and R143: the TX log is a sequence of transmissions, each a frame that starts with the marker and ends with its
checksum. -/
def State.WireInv (s : State) : Prop :=
  ∃ frames : List Frame, s.txLog = frames.flatMap txBlock ∧
    ∀ f ∈ frames, f[0] = s.cfg.syncMarker ∧ f[6] = 0x00#8 ∧ f[7] = checksum (leadingBytes f)

/-- All of them. -/
def State.Inv (s : State) : Prop :=
  s.SyncInv ∧ s.OpInv ∧ s.StagedInv ∧ s.UnattachedInv ∧ s.WireInv

/-- The agenda brings no second host (R62). -/
def State.OneHost (s : State) : Prop := Turn.secondHost ∉ s.agenda

/-- Whether the next step is the core's block step. -/
def State.coreMoves (s : State) : Prop := s.agenda = [] ∨ ∃ rest, s.agenda = .core :: rest

/-- The state the turn taken leaves behind: the agenda without its first turn. -/
def State.afterTurn (s : State) : State := { s with agenda := s.agenda.tail }

/-- `s` with the fields that receiving bytes may change taken from `t`: the registers of Decode (R130), those of the byte step
(R100), LAST_RX_MS (R103), RXQ (R56) and the event log. -/
def State.withReception (s t : State) : State :=
  { s with
    onOff := t.onOff
    mode := t.mode
    fan := t.fan
    targetTemp := t.targetTemp
    currentTemp := t.currentTemp
    syncState := t.syncState
    rxCount := t.rxCount
    rxBuf := t.rxBuf
    lastRxMs := t.lastRxMs
    rxq := t.rxq
    evLog := t.evLog }

/-- `s` with the fields Decode may change taken from `t` (R130). -/
def State.withDecoded (s t : State) : State :=
  { s with
    onOff := t.onOff
    mode := t.mode
    fan := t.fan
    targetTemp := t.targetTemp
    currentTemp := t.currentTemp
    evLog := t.evLog }

/-- `s` with the event log `ev` and the TX log `tx` (R211, R57). -/
def State.withLogs (s : State) (ev : List Event) (tx : List TxItem) : State := { s with evLog := ev, txLog := tx }

/-- `n` steps that all have a next state, and the invariants at the end. -/
def State.safeFor (n : Nat) (s : State) : Prop := ∃ t, Sys2Proof.core.run n s = .next t ∧ t.Inv

end Sys2Proof.Machine
end

