-- ==== Sys2Proof/Certificates/Slice0/Obligations.lean ====
section
/-!
DEFINITION. The statements for the provers, in the order of the spec's files: encoding, the machine's step, the
synchronizer, the codec, the scheduler, host control, the whole machine, reset and invariants.
-/
open Sys2Proof Sys2Proof.Machine

/-! ### Encoding (30_encoding.md) -/

/-- R82: each opcode of the map selects its command, whatever the operands, and no other opcode selects any. -/
def Obligations.OpcodeMapIsExact : Prop :=
  ∀ c : Command,
    (c.op = 0x01#8 ↔ ∃ role, decode c = .ok (.attach role)) ∧
    (c.op = 0x02#8 ↔ decode c = .ok .poll) ∧
    (c.op = 0x03#8 ↔ ∃ ms, decode c = .ok (.wait ms)) ∧
    (c.op = 0x04#8 ↔ decode c = .ok .send) ∧
    (c.op = 0x05#8 ↔ ∃ len frame, decode c = .ok (.decodeExt len frame)) ∧
    (c.op = 0x10#8 ↔ ∃ on, decode c = .ok (.setPwr on)) ∧
    (c.op = 0x11#8 ↔ ∃ code, decode c = .ok (.setMode code)) ∧
    (c.op = 0x12#8 ↔ ∃ code, decode c = .ok (.setFan code)) ∧
    (c.op = 0x13#8 ↔ ∃ celsius, decode c = .ok (.setTemp celsius)) ∧
    (c.op = 0x20#8 ↔ decode c = .ok .getPower) ∧
    (c.op = 0x21#8 ↔ decode c = .ok .getMode) ∧
    (c.op = 0x22#8 ↔ decode c = .ok .getFan) ∧
    (c.op = 0x23#8 ↔ decode c = .ok .getTarget) ∧
    (c.op = 0x24#8 ↔ decode c = .ok .getCurrent) ∧
    (c.op = 0x25#8 ↔ decode c = .ok .getPending) ∧
    (c.op ∉ [0x01#8, 0x02#8, 0x03#8, 0x04#8, 0x05#8, 0x10#8, 0x11#8, 0x12#8, 0x13#8,
        0x20#8, 0x21#8, 0x22#8, 0x23#8, 0x24#8, 0x25#8] ↔
      decode c = .error (.unassignedOpcode c.op))

/-- Words written out from the opcode map (R82) and the operand table (R83) decode to the commands they stand for. -/
def Obligations.SpecWordsDecode : Prop :=
  decode ⟨0x01#8, 0x00000001#32, 0#64⟩ = .ok (.attach .secondary) ∧
  decode ⟨0x02#8, 0x00000000#32, 0#64⟩ = .ok .poll ∧
  decode ⟨0x03#8, 0x000003E8#32, 0#64⟩ = .ok (.wait 1000#32) ∧
  decode ⟨0x05#8, 0x00000008#32, 0xEB010005010000FE#64⟩ =
    .ok (.decodeExt 8#4 #v[0xFE#8, 0x00#8, 0x00#8, 0x01#8, 0x05#8, 0x00#8, 0x01#8, 0xEB#8]) ∧
  decode ⟨0x11#8, 0xFFFFFFF8#32, 0#64⟩ = .ok (.setMode 0#3) ∧
  decode ⟨0x13#8, 0x00000118#32, 0#64⟩ = .ok (.setTemp 0x18#8) ∧
  decode ⟨0x25#8, 0x00000000#32, 0#64⟩ = .ok .getPending ∧
  decode ⟨0x26#8, 0x00000000#32, 0#64⟩ = .error (.unassignedOpcode 0x26#8)

/-- Decoding what the encoder writes gives the instruction back, for every operand value, and so do the bits of the command
word: no bit of an encoding is dropped. -/
def Obligations.DecodeInvertsEncode : Prop :=
  ∀ i : Instr, decode (encode i) = .ok i ∧ decode (Command.ofWord (encode i).word) = .ok i

/-- A command that decodes is, its reserved bits cleared, the one the encoder writes: no two commands that differ in an
operand bit the opcode reads decode alike. -/
def Obligations.EncodeInvertsDecode : Prop :=
  ∀ (c : Command) (i : Instr), decode c = .ok i → encode i = c.clearReserved

/-- R84: any value in the reserved operand bits gives the same behaviour as zero. -/
def Obligations.ReservedOperandBitsAreIgnored : Prop :=
  ∀ (c : Command) (s : State), decode c = decode c.clearReserved ∧ s.acceptCommand c = s.acceptCommand c.clearReserved

/-- R88: each pseudo-instruction line assembles to what its expansion assembles to, for every number of the operands. -/
def Obligations.PseudoInstructionsExpand : Prop :=
  assembleLine "ON".toList = assembleLine "SETPWR 1".toList ∧
  assembleLine "OFF".toList = assembleLine "SETPWR 0".toList ∧
  assembleLine "ATTACH PRIMARY".toList = assembleLine "ATTACH 0".toList ∧
  assembleLine "ATTACH SECONDARY".toList = assembleLine "ATTACH 1".toList ∧
  (∀ n ∈ [("UNKNOWN", "0"), ("FAN", "1"), ("DRY", "2"), ("COOL", "3"), ("HEAT", "4"), ("AUTO", "5")],
    assembleLine ("SETMODE ".toList ++ n.1.toList) = assembleLine ("SETMODE ".toList ++ n.2.toList)) ∧
  (∀ n ∈ [("AUTO", "0"), ("QUIET", "1"), ("LOW", "2"), ("MEDIUM", "3"), ("HIGH", "4")],
    assembleLine ("SETFAN ".toList ++ n.1.toList) = assembleLine ("SETFAN ".toList ++ n.2.toList)) ∧
  (∀ ws : List (List Char), ws.length = 8 →
    assembleWords "DECODE_EXT".toList ws = assembleWords "DECODE_EXT".toList (['8'] :: ws))

/-! ### The step (00_scope.md, 43_host_control.md) -/

/-- The core's block step runs the decoded command: in IDLE, with `c` first on the port and `c` decoding to `i`, the step is
`exec i` on the state without that command and without the turn. -/
def Obligations.StepRunsDecodedCommand : Prop :=
  ∀ (s : State) (c : Command) (rest : List Command) (i : Instr),
    s.coreMoves → s.opState = .idle → s.port = c :: rest → decode c = .ok i →
    step s = exec i { s.afterTurn with port := rest }

/-- R201: an unassigned opcode, attached or not, changes nothing but RESULT, which becomes 0, and reports EV_BADCMD with the
opcode; the step has a next state and OP_STATE stays IDLE; and no command word, unassigned or not, makes the core stop. -/
def Obligations.UnassignedOpcodeOnlyReports : Prop :=
  (∀ (s : State) (c : Command) (rest : List Command),
    s.coreMoves → s.opState = .idle → s.port = c :: rest →
    c.op ∉ [0x01#8, 0x02#8, 0x03#8, 0x04#8, 0x05#8, 0x10#8, 0x11#8, 0x12#8, 0x13#8,
      0x20#8, 0x21#8, 0x22#8, 0x23#8, 0x24#8, 0x25#8] →
    step s = .next { s.afterTurn with
      port := rest, result := 0#32, evLog := s.evLog ++ [⟨.badCmd, c.op⟩] }) ∧
  (∀ (c : Command) (s : State), ∃ t, s.acceptCommand c = .next t)

/-- Between block steps bytes are appended to RXQ, the clock advances modulo 2^32, the host presents a command (at the tail of the
port's queue: log 5), the reset input resets the registers (and leaves the port and the turns to come: log 11), and nothing else
changes; the core's own turn is its block step; an idle core to which no command is presented changes nothing (log 3, log 6); a
second host is refused (R62, log 8) and a core turn in the unused OP_STATE faults (log 7), and no other step stops. -/
def Obligations.EveryTurnHasItsEffect : Prop :=
  ∀ (s : State) (rest : List Turn),
    (∀ bytes, s.agenda = .rxArrive bytes :: rest → step s = .next { s with rxq := s.rxq ++ bytes, agenda := rest }) ∧
    (∀ ms, s.agenda = .clockAdvance ms :: rest →
      step s = .next { s with nowMs := BitVec.ofNat 32 (s.nowMs.toNat + ms), agenda := rest }) ∧
    (∀ c, s.agenda = .hostPresent c :: rest → step s = .next { s with port := s.port ++ [c], agenda := rest }) ∧
    (s.coreMoves → step s = s.afterTurn.coreTurn) ∧
    (s.coreMoves → s.opState = .idle → s.port = [] → step s = .next s.afterTurn) ∧
    (s.agenda = .resetAssert :: rest → step s = .next { s.applyReset with agenda := rest }) ∧
    (s.agenda = .secondHost :: rest → step s = .refused .secondHost) ∧
    (s.coreMoves → s.opState = .unused → step s = .fault .opStateUnused) ∧
    (∀ r, step s = .refused r → r = .secondHost ∧ s.agenda.head? = some .secondHost) ∧
    (∀ f, step s = .fault f → f = .opStateUnused ∧ s.coreMoves ∧ s.opState = .unused)

/-- R190: while OP_STATE is WAIT_RX or WAIT_TX no command is accepted and none is lost: the port, the model's queue of presented
commands (log 5), keeps them, in their order, through every step but a reset, which ends the busy command; and every command but
WAIT and SEND completes in the step that accepts it, with OP_STATE IDLE. -/
def Obligations.PortHoldsWhileBusy : Prop :=
  (∀ s t : State, s.opState = .waitRx ∨ s.opState = .waitTx → s.agenda.head? ≠ some .resetAssert → step s = .next t →
    s.port <+: t.port) ∧
  (∀ (i : Instr) (s : State), s.opState = .idle → (∀ ms, i ≠ .wait ms) → i ≠ .send →
    ∃ t, exec i s = .next t ∧ t.opState = .idle)

/-! ### The Frame Synchronizer (40_synchronizer.md) -/

/-- R101: SCANNING, the marker starts a candidate, with no event; any other byte is lost, with EV_DISCARD. -/
def Obligations.ScanningByteStep : Prop :=
  ∀ (s : State) (b : Byte), s.syncState = .scanning →
    (b = s.cfg.syncMarker →
      s.syncByte b = ({ s with rxBuf := s.rxBuf.set 0 b, rxCount := 1#4, syncState := .collecting }, false)) ∧
    (b ≠ s.cfg.syncMarker → s.syncByte b = ({ s with evLog := s.evLog ++ [⟨.discard, b⟩] }, false))

/-- R102: COLLECTING with one to seven bytes held, a byte of any value is stored at RX_BUF[RX_COUNT]; with fewer than eight then
held it is counted and nothing else happens, with no event, and the step returns false. -/
def Obligations.CollectingByteStepAppends : Prop :=
  ∀ (s : State) (b : Byte) (n : Fin 8), s.syncState = .collecting → s.rxCount.toNat = n.val → 1 ≤ n.val →
    (s.syncByte b).1.rxBuf = s.rxBuf.set n b ∧
    (n.val ≤ 6 →
      s.syncByte b = ({ s with rxBuf := s.rxBuf.set n b, rxCount := BitVec.ofNat 4 (n.val + 1) }, false))

/-- R103: the eighth byte, equal to the end marker, completes a frame: EV_FRAME_OK, then Decode of the eight bytes, SCANNING with
no byte held, LAST_RX_MS the step's clock sample, RX_BUF kept, and true. -/
def Obligations.EndMarkerAcceptsFrame : Prop :=
  ∀ (s : State) (b : Byte), s.syncState = .collecting → s.rxCount = 7#4 → b = s.cfg.endMarker →
    s.syncByte b =
      ({ State.decodeFrame (s.rxBuf.set 7 b) { s with evLog := s.evLog ++ [⟨.frameOk, 0x00#8⟩] } with
          rxBuf := s.rxBuf.set 7 b, syncState := .scanning, rxCount := 0#4, lastRxMs := s.nowMs }, true)

/-- R104: the eighth byte, different from the end marker, loses the candidate: EV_SYNC_LOSS with that byte, SCANNING with no
byte held, false, and neither a heat-pump register nor LAST_RX_MS is written. -/
def Obligations.EndMarkerMismatchLosesSync : Prop :=
  ∀ (s : State) (b : Byte), s.syncState = .collecting → s.rxCount = 7#4 → b ≠ s.cfg.endMarker →
    s.syncByte b =
      ({ s with
          rxBuf := s.rxBuf.set 7 b, syncState := .scanning, rxCount := 0#4,
          evLog := s.evLog ++ [⟨.syncLoss, b⟩] }, false)

/-- R105: COLLECTING with RX_COUNT outside 1 to 7, any byte: EV_OVERFLOW with RX_COUNT, SCANNING with no byte held, the byte
discarded, false; the invariant every run keeps rules that state out. -/
def Obligations.CapacityGuardResets : Prop :=
  ∀ (s : State) (b : Byte), s.syncState = .collecting → s.rxCount = 0#4 ∨ 8 ≤ s.rxCount.toNat →
    s.syncByte b =
      ({ s with
          syncState := .scanning, rxCount := 0#4,
          evLog := s.evLog ++ [⟨.overflow, s.rxCount.setWidth 8⟩] }, false) ∧
    ¬ s.SyncInv

/-- R107: POLL is op 0x02; unattached it only reports; attached it is the loop of the rule: an empty RXQ ends it with RESULT 0, and
a byte is popped and stepped, after which POLL stops with RESULT 1 at an accepted frame unless POLL_DRAIN, and otherwise goes on
with the bytes left, RESULT 1 if a frame was accepted before. -/
def Obligations.PollIsTheReceiveLoop : Prop :=
  (∀ c : Command, c.op = 0x02#8 → decode c = .ok .poll) ∧
  ∀ s : State,
    (s.attached = false →
      exec .poll s = .next { s with result := 0#32, evLog := s.evLog ++ [⟨.unattached, 0x02#8⟩] }) ∧
    (s.attached = true → s.rxq = [] → exec .poll s = .next { s with result := 0#32 }) ∧
    (∀ b rest, s.attached = true → s.rxq = b :: rest →
      ((s.syncByte b).2 = false → exec .poll s = exec .poll { (s.syncByte b).1 with rxq := rest }) ∧
      ((s.syncByte b).2 = true → s.cfg.pollDrain = false →
        exec .poll s = .next { (s.syncByte b).1 with rxq := rest, result := 1#32 }) ∧
      ((s.syncByte b).2 = true → s.cfg.pollDrain = true →
        ∃ t, exec .poll { (s.syncByte b).1 with rxq := rest } = .next t ∧
          exec .poll s = .next { t with result := 1#32 }))

/-- POLL completes in every state, writes nothing but RESULT and what receiving bytes may write, and takes bytes from the head of
RXQ only: PENDING, TX_SLOT, ATTACHED, ROLE, OP_STATE, the wait latches, NOW_MS and the TX log are unchanged. -/
def Obligations.PollCompletesWithinItsFrame : Prop :=
  ∀ s : State, ∃ t, exec .poll s = .next t ∧ t = { s.withReception t with result := t.result } ∧
    t.rxq <:+ s.rxq ∧ s.evLog <+: t.evLog ∧ (t.result = 0#32 ∨ t.result = 1#32)

/-- R108: WAIT is op 0x03 with timeout arg[31:0]; its issue step latches NOW_MS and the timeout and parks in WAIT_RX, writing nothing
else, RESULT included; unattached it only reports. -/
def Obligations.WaitIssueLatches : Prop :=
  (∀ c : Command, c.op = 0x03#8 → decode c = .ok (.wait c.arg)) ∧
  ∀ (s : State) (ms : Ms),
    (s.attached = true →
      exec (.wait ms) s = .next { s with waitStartMs := s.nowMs, waitTimeoutMs := ms, opState := .waitRx }) ∧
    (s.attached = false →
      exec (.wait ms) s = .next { s with result := 0#32, evLog := s.evLog ++ [⟨.unattached, 0x03#8⟩] })

/-- R109: the busy step of WAIT is the loop of the rule: a byte is popped and stepped; an accepted frame ends the WAIT with RESULT 1
whatever POLL_DRAIN is, the bytes after it left in RXQ; with RXQ empty the wrapping elapsed time is tested, and at the timeout
or later EV_TIMEOUT ends the WAIT with RESULT 0; before it nothing else changes. -/
def Obligations.WaitBusyStepIsTheReceiveLoop : Prop :=
  ∀ s : State, s.opState = .waitRx →
    (∀ b rest, s.rxq = b :: rest →
      ((s.syncByte b).2 = true →
        s.coreTurn = .next { (s.syncByte b).1 with rxq := rest, result := 1#32, opState := .idle }) ∧
      ((s.syncByte b).2 = false → s.coreTurn = State.coreTurn { (s.syncByte b).1 with rxq := rest })) ∧
    (s.rxq = [] →
      (s.waitTimeoutMs.toNat ≤ (s.nowMs - s.waitStartMs).toNat →
        s.coreTurn =
          .next { s with result := 0#32, opState := .idle, evLog := s.evLog ++ [⟨.timeout, 0x00#8⟩] }) ∧
      ((s.nowMs - s.waitStartMs).toNat < s.waitTimeoutMs.toNat → s.coreTurn = .next s))

/-- R110: a candidate survives between commands: receiving `a` and later `b` is receiving `a` then `b` at once (the draining loop); no
instruction but POLL, and no SEND busy step, touches SYNC_STATE, RX_COUNT or RX_BUF; and with no byte to receive no step but a
reset does, be it a WAIT's timeout or the passing of time. -/
def Obligations.PartialFramesPersist : Prop :=
  (∀ (s : State) (got : Bool) (a b : List Byte),
    s.consume true got (a ++ b) = (s.consume true got a).1.consume true (s.consume true got a).2 b) ∧
  (∀ (i : Instr) (s t : State), i ≠ .poll → exec i s = .next t →
    t.syncState = s.syncState ∧ t.rxCount = s.rxCount ∧ t.rxBuf = s.rxBuf) ∧
  (∀ s : State, s.sendBusy.syncState = s.syncState ∧ s.sendBusy.rxCount = s.rxCount ∧ s.sendBusy.rxBuf = s.rxBuf) ∧
  (∀ s t : State, step s = .next t → s.rxq = [] → s.agenda.head? ≠ some .resetAssert →
    t.syncState = s.syncState ∧ t.rxCount = s.rxCount ∧ t.rxBuf = s.rxBuf)

/-- The characterisation of the synchronizer: from SCANNING, the receive loop that drains RXQ does exactly what the scan of the whole
byte sequence says, item by item, in every field; and a frame is produced exactly for the candidates that end with the end
marker. -/
def Obligations.ReceiveRefinesScan : Prop :=
  ∀ (s : State) (bytes : List Byte), s.syncState = .scanning → s.rxCount = 0#4 →
    let items := scan s.cfg.syncMarker s.cfg.endMarker bytes
    s.consume true false bytes = ({ items.foldl ScanItem.apply s with rxq := [] }, items.any ScanItem.isFrame)

/-- A candidate of eight bytes read from SCANNING is taken whole: accepted if its last byte is the end marker, otherwise discarded
whole, and no marker inside it starts another candidate. -/
def Obligations.CandidateIsTakenWhole : Prop :=
  ∀ (s : State) (f : Frame) (rest : List Byte), s.syncState = .scanning → s.rxCount = 0#4 → f[0] = s.cfg.syncMarker →
    (f[7] ≠ s.cfg.endMarker →
      s.consume false false (f.toList ++ rest) =
        State.consume false false rest { s with rxBuf := f, evLog := s.evLog ++ [⟨.syncLoss, f[7]⟩] }) ∧
    (f[7] = s.cfg.endMarker →
      s.consume false false (f.toList ++ rest) =
        ({ State.decodeFrame f { s with evLog := s.evLog ++ [⟨.frameOk, 0x00#8⟩] } with
            rxBuf := f, lastRxMs := s.nowMs, rxq := rest }, true))

/-- R113: bytes leave RXQ, and LAST_RX_MS changes, only in a POLL and in a WAIT busy step: every other instruction and every SEND busy
step leaves both alone, and so does every other step but a reset, RXQ apart from the bytes that arrive at its tail. -/
def Obligations.OnlyPollAndWaitConsumeBytes : Prop :=
  (∀ (i : Instr) (s t : State), i ≠ .poll → exec i s = .next t → t.rxq = s.rxq ∧ t.lastRxMs = s.lastRxMs) ∧
  (∀ s : State, s.sendBusy.rxq = s.rxq ∧ s.sendBusy.lastRxMs = s.lastRxMs) ∧
  (∀ s t : State, step s = .next t → s.agenda.head? ≠ some .resetAssert →
    s.rxq <+: t.rxq ∧ t.lastRxMs = s.lastRxMs ∨
    s.coreMoves ∧ (s.opState = .waitRx ∨ s.opState = .idle ∧ ∃ c rest, s.port = c :: rest ∧ decode c = .ok .poll))

/-! ### The Field Codec (41_codec.md) -/

/-- R131 to R135: power, mode and fan are the masked and shifted bits of byte 3, unconditionally; the target and the room
temperature are written, the raw value plus the offset, when their raw values are in range (the latter only when the
controller-present bit is set) and kept otherwise; a range event carries the raw value, the target's first, and an absent
controller is none. (A sum above 255 cannot occur under the documented parameters; for others it is log 10's.) -/
def Obligations.DecodeWritesTheFields : Prop :=
  ∀ (s : State) (f : Frame),
    let t := s.decodeFrame f
    let rawT := f[4] &&& 0x7F#8
    let rawR := (f[6] &&& 0x7E#8) >>> 1
    let present := f[6] &&& 0x01#8 = 0x01#8
    t.onOff.setWidth 8 = f[3] &&& 0x01#8 ∧
    t.mode.setWidth 8 = (f[3] &&& 0x0E#8) >>> 1 ∧
    t.fan.setWidth 8 = (f[3] &&& 0x70#8) >>> 4 ∧
    (rawT.toNat ≤ s.cfg.tgtRawMax.toNat → rawT.toNat + s.cfg.tgtTempOffset.toNat < 256 →
      t.targetTemp.toNat = rawT.toNat + s.cfg.tgtTempOffset.toNat) ∧
    (s.cfg.tgtRawMax.toNat < rawT.toNat → t.targetTemp = s.targetTemp) ∧
    (present → rawR.toNat ≤ s.cfg.roomRawMax.toNat → rawR.toNat + s.cfg.roomTempOffset.toNat < 256 →
      t.currentTemp.toNat = rawR.toNat + s.cfg.roomTempOffset.toNat) ∧
    (¬ present ∨ s.cfg.roomRawMax.toNat < rawR.toNat → t.currentTemp = s.currentTemp) ∧
    t.evLog = s.evLog ++
      (if rawT.toNat ≤ s.cfg.tgtRawMax.toNat then [] else [⟨.tgtRange, rawT⟩]) ++
      (if present ∧ s.cfg.roomRawMax.toNat < rawR.toNat then [⟨.roomRange, rawR⟩] else [])

/-- R130 and R136: Decode writes only the five heat-pump registers and the event log; and bytes 0, 1, 2, 5 and 7, and bit 7 of bytes
3, 4 and 6, have no effect. -/
def Obligations.DecodeReadsAndWritesNothingElse : Prop :=
  ∀ (s : State) (f g : Frame),
    s.decodeFrame f = s.withDecoded (s.decodeFrame f) ∧
    (f[3] &&& 0x7F#8 = g[3] &&& 0x7F#8 → f[4] &&& 0x7F#8 = g[4] &&& 0x7F#8 → f[6] &&& 0x7F#8 = g[6] &&& 0x7F#8 →
      s.decodeFrame f = s.decodeFrame g)

/-- Decode is idempotent and the last frame wins: decoding a frame twice leaves every register as decoding it once; after f and
then g, power, mode and fan are g's and each temperature is g's if g's raw value is valid (and present), else f's if f's is,
else the value before (8-bit sums: log 10). -/
def Obligations.DecodeIsIdempotentLastFrameWins : Prop :=
  ∀ (s : State) (f g : Frame),
    let rawT := fun h : Frame => h[4] &&& 0x7F#8
    let validT := fun h : Frame => (rawT h).toNat ≤ s.cfg.tgtRawMax.toNat
    let rawR := fun h : Frame => (h[6] &&& 0x7E#8) >>> 1
    let validR := fun h : Frame => h[6] &&& 0x01#8 = 0x01#8 ∧ (rawR h).toNat ≤ s.cfg.roomRawMax.toNat
    let t := (s.decodeFrame f).decodeFrame g
    { (s.decodeFrame f).decodeFrame f with evLog := [] } = { s.decodeFrame f with evLog := [] } ∧
    { t with evLog := [], targetTemp := 0#8, currentTemp := 0#8 } =
      { s.decodeFrame g with evLog := [], targetTemp := 0#8, currentTemp := 0#8 } ∧
    (validT g → t.targetTemp = rawT g + s.cfg.tgtTempOffset) ∧
    (¬ validT g → validT f → t.targetTemp = rawT f + s.cfg.tgtTempOffset) ∧
    (¬ validT g → ¬ validT f → t.targetTemp = s.targetTemp) ∧
    (validR g → t.currentTemp = rawR g + s.cfg.roomTempOffset) ∧
    (¬ validR g → validR f → t.currentTemp = rawR f + s.cfg.roomTempOffset) ∧
    (¬ validR g → ¬ validR f → t.currentTemp = s.currentTemp)

/-- R140 to R143: bytes 0 to 7 of the outbound frame; byte 4 is the clamp over integers: 0 below the offset, TGT_RAW_MAX above the
range, the difference within it; and TARGET_TEMP is not changed by the encode that Stage runs. -/
def Obligations.EncodeWritesTheBytes : Prop :=
  ∀ s : State,
    let f := s.encodeFrame
    f[0] = s.cfg.syncMarker ∧
    f[1] = (if s.role = .primary then s.cfg.roleCodePrimary else s.cfg.roleCodeSecondary) ∧
    f[2] = s.onOff.setWidth 8 ∧
    f[3] = s.mode.setWidth 8 ∧
    (s.targetTemp.toNat ≤ s.cfg.tgtTempOffset.toNat → f[4] = 0x00#8) ∧
    (s.cfg.tgtTempOffset.toNat ≤ s.targetTemp.toNat →
      s.targetTemp.toNat - s.cfg.tgtTempOffset.toNat ≤ s.cfg.tgtRawMax.toNat →
      f[4].toNat = s.targetTemp.toNat - s.cfg.tgtTempOffset.toNat) ∧
    (s.cfg.tgtRawMax.toNat ≤ s.targetTemp.toNat - s.cfg.tgtTempOffset.toNat → f[4] = s.cfg.tgtRawMax) ∧
    f[5] = s.fan.setWidth 8 ∧
    f[6] = 0x00#8 ∧
    f[7].toNat = (f[0].toNat + f[1].toNat + f[2].toNat + f[3].toNat + f[4].toNat + f[5].toNat + f[6].toNat) % 256 ∧
    s.stage.txSlot = f ∧ s.stage.targetTemp = s.targetTemp

/-- R144: the checksum of any bytes, a wide sum truncated to 8 bits, equals the sum reduced modulo 256 at every addition; of seven
bytes the wide sum fits in 11 bits. -/
def Obligations.ChecksumIsTheWraparoundSum : Prop :=
  ∀ bytes : List Byte,
    (checksum bytes).toNat = (bytes.map BitVec.toNat).sum % 256 ∧
    checksum bytes = bytes.foldl (· + ·) 0#8 ∧
    (bytes.length = 7 → (bytes.map BitVec.toNat).sum ≤ 1785)

/-- R147: DECODE_EXT is op 0x05 with len arg[3:0] and byte i data[8i+7:8i]; unattached it reports; a length other than 8 is rejected
with EV_BADLEN and no register written but RESULT; length 8 decodes the frame without a marker check and gives RESULT 1. -/
def Obligations.DecodeExtRule : Prop :=
  (∀ c : Command, c.op = 0x05#8 → decode c = .ok (.decodeExt (c.arg.extractLsb' 0 4) (frameOfData c.data))) ∧
  (∀ (d : BitVec 64) (i : Fin 8), (frameOfData d)[i] = d.extractLsb' (8 * i.val) 8) ∧
  ∀ (s : State) (len : BitVec 4) (f : Frame),
    (s.attached = false →
      exec (.decodeExt len f) s = .next { s with result := 0#32, evLog := s.evLog ++ [⟨.unattached, 0x05#8⟩] }) ∧
    (s.attached = true → len ≠ 8#4 →
      exec (.decodeExt len f) s =
        .next { s with result := 0#32, evLog := s.evLog ++ [⟨.badLen, len.setWidth 8⟩] }) ∧
    (s.attached = true → exec (.decodeExt 8#4 f) s = .next { s.decodeFrame f with result := 1#32 })

/-- An outbound frame that the bus echoes to a SCANNING synchronizer is accepted exactly when its checksum equals the end
marker, and it is then decoded with the inbound layout: power is MODE bit 0, mode is MODE bits 2:1, fan is 0. -/
def Obligations.EchoIsAcceptedIffChecksumIsEndMarker : Prop :=
  ∀ (s sender : State), s.syncState = .scanning → s.rxCount = 0#4 → s.cfg = sender.cfg →
    let f := sender.encodeFrame
    (s.consume true false f.toList).2 = decide (f[7] = s.cfg.endMarker) ∧
    (f[7] = s.cfg.endMarker →
      (s.consume true false f.toList).1.onOff = sender.mode.extractLsb' 0 1 ∧
      (s.consume true false f.toList).1.mode = (sender.mode.extractLsb' 1 2).setWidth 3 ∧
      (s.consume true false f.toList).1.fan = 0#3)

/-- Under the documented parameters and the codes setters may write, the outbound checksum equals END_MARKER only for role codes
from 0xD5 to 0xED. -/
def Obligations.EndMarkerChecksumNeedsARoleCodeInRange : Prop :=
  ∀ s : State, s.cfg.syncMarker = 0xFE#8 → s.cfg.tgtTempOffset = 16#8 → s.cfg.tgtRawMax = 14#8 →
    modeCodeLegal s.mode = true → fanCodeLegal s.fan = true → s.encodeFrame[7] = 0xEB#8 →
    0xD5 ≤ (outRole s.cfg s.role).toNat ∧ (outRole s.cfg s.role).toNat ≤ 0xED

/-! ### The Transmit Scheduler (42_scheduler.md) -/

/-- R162: SETPWR is op 0x10 with on = arg[0]. -/
def Obligations.SetPwrRule : Prop :=
  (∀ c : Command, c.op = 0x10#8 → decode c = .ok (.setPwr (c.arg.extractLsb' 0 1))) ∧
  ∀ (s : State) (on : BitVec 1),
    (s.attached = false →
      exec (.setPwr on) s = .next { s with result := 0#32, evLog := s.evLog ++ [⟨.unattached, 0x10#8⟩] }) ∧
    (s.attached = true → on = s.onOff → exec (.setPwr on) s = .next { s with result := 0#32 }) ∧
    (s.attached = true → on ≠ s.onOff →
      exec (.setPwr on) s = .next { s with
        onOff := on, pending := true, result := 0#32,
        txSlot := outboundFrame s.cfg s.role on s.mode s.fan s.targetTemp })

/-- R163: SETMODE is op 0x11 with code = arg[2:0]; codes 6 and 7 are rejected before the attachment check. -/
def Obligations.SetModeRule : Prop :=
  (∀ c : Command, c.op = 0x11#8 → decode c = .ok (.setMode (c.arg.extractLsb' 0 3))) ∧
  ∀ (s : State) (code : BitVec 3),
    (5 < code.toNat →
      exec (.setMode code) s = .next { s with result := 0#32, evLog := s.evLog ++ [⟨.badCmd, 0x11#8⟩] }) ∧
    (code.toNat ≤ 5 → s.attached = false →
      exec (.setMode code) s = .next { s with result := 0#32, evLog := s.evLog ++ [⟨.unattached, 0x11#8⟩] }) ∧
    (code.toNat ≤ 5 → s.attached = true → code = s.mode → exec (.setMode code) s = .next { s with result := 0#32 }) ∧
    (code.toNat ≤ 5 → s.attached = true → code ≠ s.mode →
      exec (.setMode code) s = .next { s with
        mode := code, pending := true, result := 0#32,
        txSlot := outboundFrame s.cfg s.role s.onOff code s.fan s.targetTemp })

/-- R164: SETFAN is op 0x12 with code = arg[2:0]; codes 5 to 7 are rejected before the attachment check. -/
def Obligations.SetFanRule : Prop :=
  (∀ c : Command, c.op = 0x12#8 → decode c = .ok (.setFan (c.arg.extractLsb' 0 3))) ∧
  ∀ (s : State) (code : BitVec 3),
    (4 < code.toNat →
      exec (.setFan code) s = .next { s with result := 0#32, evLog := s.evLog ++ [⟨.badCmd, 0x12#8⟩] }) ∧
    (code.toNat ≤ 4 → s.attached = false →
      exec (.setFan code) s = .next { s with result := 0#32, evLog := s.evLog ++ [⟨.unattached, 0x12#8⟩] }) ∧
    (code.toNat ≤ 4 → s.attached = true → code = s.fan → exec (.setFan code) s = .next { s with result := 0#32 }) ∧
    (code.toNat ≤ 4 → s.attached = true → code ≠ s.fan →
      exec (.setFan code) s = .next { s with
        fan := code, pending := true, result := 0#32,
        txSlot := outboundFrame s.cfg s.role s.onOff s.mode code s.targetTemp })

/-- R165: SETTEMP is op 0x13 with celsius = arg[7:0]; the value is stored as given and the slot carries the clamp. -/
def Obligations.SetTempRule : Prop :=
  (∀ c : Command, c.op = 0x13#8 → decode c = .ok (.setTemp (c.arg.extractLsb' 0 8))) ∧
  ∀ (s : State) (celsius : Byte),
    (s.attached = false →
      exec (.setTemp celsius) s = .next { s with result := 0#32, evLog := s.evLog ++ [⟨.unattached, 0x13#8⟩] }) ∧
    (s.attached = true → celsius = s.targetTemp → exec (.setTemp celsius) s = .next { s with result := 0#32 }) ∧
    (s.attached = true → celsius ≠ s.targetTemp →
      exec (.setTemp celsius) s = .next { s with
        targetTemp := celsius, pending := true, result := 0#32,
        txSlot := outboundFrame s.cfg s.role s.onOff s.mode s.fan celsius })

/-- R166: SEND is op 0x04; unattached it reports; with nothing pending RESULT is 0 at once; at the minimum delay or later it transmits
in the issue step with RESULT 1; earlier it latches the clock and the remainder and parks in WAIT_TX, RESULT not written. -/
def Obligations.SendIssueRule : Prop :=
  (∀ c : Command, c.op = 0x04#8 → decode c = .ok .send) ∧
  ∀ s : State,
    (s.attached = false →
      exec .send s = .next { s with result := 0#32, evLog := s.evLog ++ [⟨.unattached, 0x04#8⟩] }) ∧
    (s.attached = true → s.pending = false → exec .send s = .next { s with result := 0#32 }) ∧
    (s.attached = true → s.pending = true → s.cfg.minTxDelayMs.toNat ≤ (s.nowMs - s.lastRxMs).toNat →
      exec .send s = .next { s with
        txLog := s.txLog ++ s.txSlot.toList.map .byte ++ [.flush], pending := false, result := 1#32 }) ∧
    (s.attached = true → s.pending = true → (s.nowMs - s.lastRxMs).toNat < s.cfg.minTxDelayMs.toNat →
      exec .send s = .next { s with
        txWaitStartMs := s.nowMs, txWaitLenMs := s.cfg.minTxDelayMs - (s.nowMs - s.lastRxMs), opState := .waitTx })

/-- R167: the busy step of SEND transmits once the wrapping time since the SEND began to wait reaches the remainder, with RESULT 1 and
OP_STATE IDLE; before that nothing changes. -/
def Obligations.SendBusyStepRule : Prop :=
  ∀ s : State, s.opState = .waitTx →
    (s.txWaitLenMs.toNat ≤ (s.nowMs - s.txWaitStartMs).toNat →
      s.coreTurn = .next { s with
        txLog := s.txLog ++ s.txSlot.toList.map .byte ++ [.flush], pending := false, result := 1#32, opState := .idle }) ∧
    ((s.nowMs - s.txWaitStartMs).toNat < s.txWaitLenMs.toNat → s.coreTurn = .next s)

/-- A setter that changes state replaces the staged frame whole, whatever was staged: the slot depends on the registers alone and
not on the old slot or PENDING. -/
def Obligations.LastSetterWins : Prop :=
  ∀ (s : State) (slot : Frame) (p : Bool) (i : Instr) (t : State),
    (∃ on, i = .setPwr on ∧ on ≠ s.onOff) ∨ (∃ c, i = .setMode c ∧ c ≠ s.mode ∧ i.wellFormed) ∨
      (∃ c, i = .setFan c ∧ c ≠ s.fan ∧ i.wellFormed) ∨ (∃ c, i = .setTemp c ∧ c ≠ s.targetTemp) →
    s.attached = true → exec i s = .next t →
    exec i { s with txSlot := slot, pending := p } = .next t ∧ t.pending = true ∧ t.txSlot = t.encodeFrame

/-- PENDING and TX_SLOT are the setters' and the transmission's alone: POLL, WAIT's issue and busy steps, DECODE_EXT, ATTACH and the
accessors leave both as they are, even when a decoded frame contradicts the staged one. -/
def Obligations.ReceptionNeverTouchesTheSlot : Prop :=
  (∀ (s t : State) (i : Instr),
    (i = .poll ∨ (∃ ms, i = .wait ms) ∨ (∃ n f, i = .decodeExt n f) ∨ (∃ r, i = .attach r) ∨ i = .getPower ∨ i = .getMode ∨
      i = .getFan ∨ i = .getTarget ∨ i = .getCurrent ∨ i = .getPending) →
    exec i s = .next t → t.pending = s.pending ∧ t.txSlot = s.txSlot ∧ t.txLog = s.txLog) ∧
  (∀ s : State, s.waitBusy =
    { s.withReception s.waitBusy with result := s.waitBusy.result, opState := s.waitBusy.opState })

/-- A frame reaches the wire only when one is pending and the minimum delay has passed, and it is then the whole slot and a flush: in
a state that meets the wait invariant, a step that changes the TX log appends exactly TX_SLOT and FLUSH, had PENDING set and
clears it, and the wrapping time since the last accepted frame had reached MIN_TX_DELAY_MS when SEND was issued, or the
remainder latched then has since passed. -/
def Obligations.TransmissionOnlyAfterTheDelay : Prop :=
  ∀ s t : State, s.OpInv → step s = .next t → t.txLog ≠ s.txLog →
    t.txLog = s.txLog ++ s.txSlot.toList.map .byte ++ [.flush] ∧
    s.pending = true ∧ t.pending = false ∧ s.attached = true ∧ t.result = 1#32 ∧ t.opState = .idle ∧
    (s.cfg.minTxDelayMs ≤ s.nowMs - s.lastRxMs ∨
      s.opState = .waitTx ∧ s.txWaitStartMs - s.lastRxMs < s.cfg.minTxDelayMs ∧
      s.cfg.minTxDelayMs - (s.txWaitStartMs - s.lastRxMs) ≤ s.nowMs - s.txWaitStartMs)

/-- Both waits end: a core turn at or after the timeout ends a WAIT, and one at or after the remainder ends a SEND, whatever has
arrived meanwhile. -/
def Obligations.WaitsEndByTheClock : Prop :=
  ∀ s : State, s.coreMoves →
    (s.opState = .waitRx → s.waitTimeoutMs ≤ s.nowMs - s.waitStartMs →
      ∃ t, step s = .next t ∧ t.opState = .idle ∧ (t.result = 0#32 ∨ t.result = 1#32 ∧ t.lastRxMs = s.nowMs)) ∧
    (s.opState = .waitTx → s.txWaitLenMs ≤ s.nowMs - s.txWaitStartMs →
      ∃ t, step s = .next t ∧ t.opState = .idle ∧ t.pending = false ∧ t.result = 1#32)

/-! ### Host control (43_host_control.md) -/

/-- R192 and R193: ATTACH is op 0x01 with role = arg[0]; the first one binds the role and gives RESULT 1; a second changes nothing but
RESULT, which becomes 0, and reports EV_REATTACH with the role operand; and no step but a reset detaches or changes the role. -/
def Obligations.AttachRule : Prop :=
  (∀ c : Command, c.op = 0x01#8 →
    decode c = .ok (.attach (if c.arg.getLsbD 0 then .secondary else .primary))) ∧
  (∀ (s : State) (role : Role),
    (s.attached = false → exec (.attach role) s = .next { s with role := role, attached := true, result := 1#32 }) ∧
    (s.attached = true →
      exec (.attach role) s = .next { s with
        result := 0#32,
        evLog := s.evLog ++ [⟨.reattach, match role with | .primary => 0x00#8 | .secondary => 0x01#8⟩] })) ∧
  (∀ s t : State, s.attached = true → step s = .next t → s.agenda.head? ≠ some .resetAssert →
    t.attached = true ∧ t.role = s.role)

/-- R194: on an unattached link each of the eight commands only sets RESULT to 0 and reports EV_UNATTACHED with its opcode, while
ATTACH and the six accessors complete as on an attached one. -/
def Obligations.UnattachedCommandsOnlyReport : Prop :=
  (∀ (s : State) (i : Instr), s.attached = false → i.wellFormed = true →
    (i = .poll ∨ (∃ ms, i = .wait ms) ∨ i = .send ∨ (∃ n f, i = .decodeExt n f) ∨ (∃ b, i = .setPwr b) ∨
      (∃ c, i = .setMode c) ∨ (∃ c, i = .setFan c) ∨ (∃ c, i = .setTemp c)) →
    exec i s = .next { s with result := 0#32, evLog := s.evLog ++ [⟨.unattached, i.opcode⟩] }) ∧
  (∀ (s : State) (role : Role), s.attached = false →
    exec (.attach role) s = .next { s with role := role, attached := true, result := 1#32 }) ∧
  (∀ (s : State) (b : Bool) (i : Instr),
    (i = .getPower ∨ i = .getMode ∨ i = .getFan ∨ i = .getTarget ∨ i = .getCurrent ∨ i = .getPending) →
    ∃ v, exec i s = .next { s with result := v } ∧
      exec i { s with attached := b } = .next { s with attached := b, result := v })

/-- R195 to R198 and R200: each accessor has its opcode and no operand, and writes RESULT, the register zero-extended, and nothing
else. -/
def Obligations.AccessorsReadTheirRegister : Prop :=
  (∀ c : Command, (c.op = 0x20#8 → decode c = .ok .getPower) ∧ (c.op = 0x21#8 → decode c = .ok .getMode) ∧
    (c.op = 0x22#8 → decode c = .ok .getFan) ∧ (c.op = 0x23#8 → decode c = .ok .getTarget) ∧
    (c.op = 0x25#8 → decode c = .ok .getPending)) ∧
  ∀ s : State,
    exec .getPower s = .next { s with result := BitVec.ofNat 32 s.onOff.toNat } ∧
    exec .getMode s = .next { s with result := BitVec.ofNat 32 s.mode.toNat } ∧
    exec .getFan s = .next { s with result := BitVec.ofNat 32 s.fan.toNat } ∧
    exec .getTarget s = .next { s with result := BitVec.ofNat 32 s.targetTemp.toNat } ∧
    exec .getPending s = .next { s with result := if s.pending then 1#32 else 0#32 }

/-- GET_CURRENT is op 0x24; it writes RESULT, CURRENT_TEMP zero-extended, and nothing else; after a reset that is the OPEN
parameter CURRENT_TEMP_INIT (log 2), whatever it is. -/
def Obligations.RoomTemperatureAccessor : Prop :=
  (∀ c : Command, c.op = 0x24#8 → decode c = .ok .getCurrent) ∧
  ∀ s : State,
    exec .getCurrent s = .next { s with result := BitVec.ofNat 32 s.currentTemp.toNat } ∧
    ∃ t, exec .getCurrent s.applyReset = .next t ∧ t.result.toNat = s.cfg.currentTempInit.toNat

/-- R202: SETMODE with code 6 or 7 and SETFAN with code 5, 6 or 7, attached or not, change nothing but RESULT, which becomes 0, and
report EV_BADCMD with the opcode; the legal codes are exactly the others. -/
def Obligations.IllegalOperandsOnlyReport : Prop :=
  ∀ s : State,
    (∀ code : BitVec 3, code = 6#3 ∨ code = 7#3 →
      exec (.setMode code) s = .next { s with result := 0#32, evLog := s.evLog ++ [⟨.badCmd, 0x11#8⟩] }) ∧
    (∀ code : BitVec 3, code = 5#3 ∨ code = 6#3 ∨ code = 7#3 →
      exec (.setFan code) s = .next { s with result := 0#32, evLog := s.evLog ++ [⟨.badCmd, 0x12#8⟩] }) ∧
    (∀ i : Instr, i.wellFormed = false ↔
      (i = .setMode 6#3 ∨ i = .setMode 7#3 ∨ i = .setFan 5#3 ∨ i = .setFan 6#3 ∨ i = .setFan 7#3))

/-! ### The whole machine (10_state.md, 60_exceptions.md) -/

/-- R210 and R214: no command, byte or frame stops the machine: every step of a state whose OP_STATE is not the unused value and
whose turn is not a second host's has a next state; so has every instruction in every state. -/
def Obligations.NoConditionIsFatal : Prop :=
  (∀ (i : Instr) (s : State), ∃ t, exec i s = .next t) ∧
  (∀ s : State, s.opState ≠ .unused → s.agenda.head? ≠ some .secondHost → ∃ t, step s = .next t)

/-- ATTACHED and ROLE change at most once after reset: once attached, no step but a reset changes either; before, only an ATTACH
does. -/
def Obligations.AttachmentChangesOnce : Prop :=
  ∀ s t : State, step s = .next t → s.agenda.head? ≠ some .resetAssert →
    (s.attached = true → t.attached = true ∧ t.role = s.role) ∧
    (s.attached = false → t.attached = true →
      s.opState = .idle ∧ ∃ c rest, s.port = c :: rest ∧ decode c = .ok (.attach t.role)) ∧
    (s.attached = false → t.attached = false → t.role = s.role)

/-- R28: PENDING goes from 1 to 0 only by a transmission or a reset, and from 0 to 1 only by a setter that stages the frame of the
registers it leaves. -/
def Obligations.PendingChangesOnlyByStageAndTransmit : Prop :=
  ∀ s t : State, step s = .next t → s.agenda.head? ≠ some .resetAssert →
    (s.pending = true → t.pending = false → t.txLog = s.txLog ++ s.txSlot.toList.map .byte ++ [.flush]) ∧
    (s.pending = false → t.pending = true → t.txSlot = t.encodeFrame ∧
      ∃ c rest i, s.port = c :: rest ∧ decode c = .ok i ∧
        ((∃ on, i = .setPwr on) ∨ (∃ m, i = .setMode m) ∨ (∃ n, i = .setFan n) ∨ (∃ d, i = .setTemp d)))

/-- No command operand but a frame reaches CURRENT_TEMP: a step changes it only by reset, to CURRENT_TEMP_INIT (log 2), or to what
Decode makes of a frame with the controller-present bit set and a raw value in range (an 8-bit sum: log 10); that frame is eight
consecutive bytes, the last the end marker, of the partial candidate followed by RXQ, where the step is a POLL or a WAIT busy
step, and the operand of a DECODE_EXT of length 8 otherwise; so under the documented room parameters a decoded value is at most
50. -/
def Obligations.CurrentTempComesFromDecodeOnly : Prop :=
  ∀ s t : State, step s = .next t → t.currentTemp ≠ s.currentTemp →
    (s.agenda.head? = some .resetAssert ∧ t.currentTemp = s.cfg.currentTempInit) ∨
    (s.coreMoves ∧
      (s.cfg.roomRawMax = 50#8 → s.cfg.roomTempOffset = 0#8 → t.currentTemp.toNat ≤ 50) ∧
      ∃ f : Frame, f[6] &&& 0x01#8 = 0x01#8 ∧ ((f[6] &&& 0x7E#8) >>> 1).toNat ≤ s.cfg.roomRawMax.toNat ∧
        t.currentTemp = ((f[6] &&& 0x7E#8) >>> 1) + s.cfg.roomTempOffset ∧
        ((s.opState = .idle ∧ ∃ c rest, s.port = c :: rest ∧ decode c = .ok (.decodeExt 8#4 f)) ∨
          ((s.opState = .waitRx ∨ s.opState = .idle ∧ ∃ c rest, s.port = c :: rest ∧ decode c = .ok .poll) ∧
            f[7] = s.cfg.endMarker ∧ f.toList <:+: s.rxBuf.toList.take s.rxCount.toNat ++ s.rxq)))

/-- The core never reads the event log or the TX log: a step on a state with other logs appends the same records and makes the
same changes everywhere else. -/
def Obligations.LogsAreNeverRead : Prop :=
  ∀ s t : State, step s = .next t →
    ∃ newEv newTx, t.evLog = s.evLog ++ newEv ∧ t.txLog = s.txLog ++ newTx ∧
      ∀ ev tx, step (s.withLogs ev tx) = .next (t.withLogs (ev ++ newEv) (tx ++ newTx))

/-- The core writes neither the clock nor the configuration, and takes nothing from the turns to come but the one it takes, at
a reset too (log 11). -/
def Obligations.ClockAndConfigurationAreNotWritten : Prop :=
  ∀ s t : State, step s = .next t →
    t.cfg = s.cfg ∧ t.agenda = s.agenda.tail ∧ (t.nowMs = s.nowMs ∨ ∃ ms, s.agenda.head? = some (.clockAdvance ms))

/-! ### Reset and invariants (70_reset_and_hazards.md, 10_state.md) -/

/-- R240 and R241: asserting reset, in any state, puts every register at its reset value in one step, any busy command abandoned, and
touches neither RXQ, NOW_MS, the TX log nor the event log. -/
def Obligations.ResetPutsEveryRegister : Prop :=
  ∀ (s : State) (rest : List Turn), s.agenda = .resetAssert :: rest →
    ∃ t, step s = .next t ∧
      t.onOff = 0#1 ∧ t.mode = ModeName.auto.code ∧ t.fan = FanName.auto.code ∧ t.targetTemp = 22#8 ∧
      t.currentTemp = s.cfg.currentTempInit ∧ t.pending = false ∧ t.txSlot = Vector.replicate 8 0x00#8 ∧
      t.syncState = .scanning ∧ t.rxCount = 0#4 ∧ t.rxBuf = Vector.replicate 8 0x00#8 ∧ t.lastRxMs = 0#32 ∧
      t.attached = false ∧ t.role = .primary ∧ t.opState = .idle ∧ t.waitStartMs = 0#32 ∧ t.waitTimeoutMs = 0#32 ∧
      t.txWaitStartMs = 0#32 ∧ t.txWaitLenMs = 0#32 ∧ t.result = 0#32 ∧
      t.rxq = s.rxq ∧ t.nowMs = s.nowMs ∧ t.txLog = s.txLog ∧ t.evLog = s.evLog

/-- The state after reset, and every launch with an empty TX log, meets the invariants. -/
def Obligations.LaunchMeetsTheInvariants : Prop :=
  State.reset.Inv ∧
  (∀ cfg rxq nowMs port agenda, (State.launch cfg rxq nowMs port agenda).Inv) ∧
  State.reset = State.launch Config.documented [] 0#32 [] []

/-- Every step keeps the synchronizer's invariant: no byte held while SCANNING; one to seven, the first the marker, while
COLLECTING. -/
def Obligations.StepKeepsSyncInvariant : Prop :=
  ∀ s t : State, s.SyncInv → step s = .next t → t.SyncInv

/-- Every step keeps OP_STATE off its unused value and the wait latches meaningful. -/
def Obligations.StepKeepsWaitInvariant : Prop :=
  ∀ s t : State, s.OpInv → step s = .next t → t.OpInv

/-- Every step keeps the staged frame an encode for the role of the link, its last byte the checksum of the others. -/
def Obligations.StepKeepsStagedFrame : Prop :=
  ∀ s t : State, s.StagedInv → step s = .next t →
    t.StagedInv ∧ (t.pending = true → t.txSlot[7] = checksum (leadingBytes t.txSlot))

/-- Every step keeps an unattached machine at its reset values, RESULT apart: reset-time and attach-time defaults agree. -/
def Obligations.StepKeepsUnattachedDefaults : Prop :=
  ∀ s t : State, s.UnattachedInv → step s = .next t → t.UnattachedInv

/-- Every step keeps the TX log a sequence of checksummed frames, each followed by its flush. -/
def Obligations.StepKeepsWireFraming : Prop :=
  ∀ s t : State, s.OpInv → s.StagedInv → s.WireInv → step s = .next t → t.WireInv

/-- From every launch with one host, every number of steps, whatever commands, bytes, clock advances and resets the agenda brings,
ends in a next state that meets every invariant: no run of the core stops. -/
def Obligations.EveryRunIsSafe : Prop :=
  ∀ (cfg : Config) (rxq : List Byte) (nowMs : Ms) (port : List Command) (agenda : List Turn) (n : Nat),
    (State.launch cfg rxq nowMs port agenda).OneHost → (State.launch cfg rxq nowMs port agenda).safeFor n
end

