-- ==== Sys2Proof/Laws/State.lean ====
section
/-!
SUPPORT. One lemma per field for each named update of the state (`emit`, `setResult`, `reject`), all true by rfl, so that no
later proof unfolds a record update; and the whole effect of the other named updates as one equation each.
-/
namespace Sys2Proof.Machine

variable (s : State) (code : EventCode) (info : Byte) (v : Word)

@[simp] theorem State.emit_onOff : (s.emit code info).onOff = s.onOff := rfl
@[simp] theorem State.emit_mode : (s.emit code info).mode = s.mode := rfl
@[simp] theorem State.emit_fan : (s.emit code info).fan = s.fan := rfl
@[simp] theorem State.emit_targetTemp : (s.emit code info).targetTemp = s.targetTemp := rfl
@[simp] theorem State.emit_currentTemp : (s.emit code info).currentTemp = s.currentTemp := rfl
@[simp] theorem State.emit_pending : (s.emit code info).pending = s.pending := rfl
@[simp] theorem State.emit_txSlot : (s.emit code info).txSlot = s.txSlot := rfl
@[simp] theorem State.emit_syncState : (s.emit code info).syncState = s.syncState := rfl
@[simp] theorem State.emit_rxCount : (s.emit code info).rxCount = s.rxCount := rfl
@[simp] theorem State.emit_rxBuf : (s.emit code info).rxBuf = s.rxBuf := rfl
@[simp] theorem State.emit_lastRxMs : (s.emit code info).lastRxMs = s.lastRxMs := rfl
@[simp] theorem State.emit_attached : (s.emit code info).attached = s.attached := rfl
@[simp] theorem State.emit_role : (s.emit code info).role = s.role := rfl
@[simp] theorem State.emit_opState : (s.emit code info).opState = s.opState := rfl
@[simp] theorem State.emit_waitStartMs : (s.emit code info).waitStartMs = s.waitStartMs := rfl
@[simp] theorem State.emit_waitTimeoutMs : (s.emit code info).waitTimeoutMs = s.waitTimeoutMs := rfl
@[simp] theorem State.emit_txWaitStartMs : (s.emit code info).txWaitStartMs = s.txWaitStartMs := rfl
@[simp] theorem State.emit_txWaitLenMs : (s.emit code info).txWaitLenMs = s.txWaitLenMs := rfl
@[simp] theorem State.emit_result : (s.emit code info).result = s.result := rfl
@[simp] theorem State.emit_rxq : (s.emit code info).rxq = s.rxq := rfl
@[simp] theorem State.emit_nowMs : (s.emit code info).nowMs = s.nowMs := rfl
@[simp] theorem State.emit_txLog : (s.emit code info).txLog = s.txLog := rfl
@[simp] theorem State.emit_evLog : (s.emit code info).evLog = s.evLog ++ [⟨code, info⟩] := rfl
@[simp] theorem State.emit_port : (s.emit code info).port = s.port := rfl
@[simp] theorem State.emit_agenda : (s.emit code info).agenda = s.agenda := rfl
@[simp] theorem State.emit_cfg : (s.emit code info).cfg = s.cfg := rfl

@[simp] theorem State.setResult_onOff : (s.setResult v).onOff = s.onOff := rfl
@[simp] theorem State.setResult_mode : (s.setResult v).mode = s.mode := rfl
@[simp] theorem State.setResult_fan : (s.setResult v).fan = s.fan := rfl
@[simp] theorem State.setResult_targetTemp : (s.setResult v).targetTemp = s.targetTemp := rfl
@[simp] theorem State.setResult_currentTemp : (s.setResult v).currentTemp = s.currentTemp := rfl
@[simp] theorem State.setResult_pending : (s.setResult v).pending = s.pending := rfl
@[simp] theorem State.setResult_txSlot : (s.setResult v).txSlot = s.txSlot := rfl
@[simp] theorem State.setResult_syncState : (s.setResult v).syncState = s.syncState := rfl
@[simp] theorem State.setResult_rxCount : (s.setResult v).rxCount = s.rxCount := rfl
@[simp] theorem State.setResult_rxBuf : (s.setResult v).rxBuf = s.rxBuf := rfl
@[simp] theorem State.setResult_lastRxMs : (s.setResult v).lastRxMs = s.lastRxMs := rfl
@[simp] theorem State.setResult_attached : (s.setResult v).attached = s.attached := rfl
@[simp] theorem State.setResult_role : (s.setResult v).role = s.role := rfl
@[simp] theorem State.setResult_opState : (s.setResult v).opState = s.opState := rfl
@[simp] theorem State.setResult_waitStartMs : (s.setResult v).waitStartMs = s.waitStartMs := rfl
@[simp] theorem State.setResult_waitTimeoutMs : (s.setResult v).waitTimeoutMs = s.waitTimeoutMs := rfl
@[simp] theorem State.setResult_txWaitStartMs : (s.setResult v).txWaitStartMs = s.txWaitStartMs := rfl
@[simp] theorem State.setResult_txWaitLenMs : (s.setResult v).txWaitLenMs = s.txWaitLenMs := rfl
@[simp] theorem State.setResult_result : (s.setResult v).result = v := rfl
@[simp] theorem State.setResult_rxq : (s.setResult v).rxq = s.rxq := rfl
@[simp] theorem State.setResult_nowMs : (s.setResult v).nowMs = s.nowMs := rfl
@[simp] theorem State.setResult_txLog : (s.setResult v).txLog = s.txLog := rfl
@[simp] theorem State.setResult_evLog : (s.setResult v).evLog = s.evLog := rfl
@[simp] theorem State.setResult_port : (s.setResult v).port = s.port := rfl
@[simp] theorem State.setResult_agenda : (s.setResult v).agenda = s.agenda := rfl
@[simp] theorem State.setResult_cfg : (s.setResult v).cfg = s.cfg := rfl

@[simp] theorem State.reject_onOff : (s.reject code info).onOff = s.onOff := rfl
@[simp] theorem State.reject_mode : (s.reject code info).mode = s.mode := rfl
@[simp] theorem State.reject_fan : (s.reject code info).fan = s.fan := rfl
@[simp] theorem State.reject_targetTemp : (s.reject code info).targetTemp = s.targetTemp := rfl
@[simp] theorem State.reject_currentTemp : (s.reject code info).currentTemp = s.currentTemp := rfl
@[simp] theorem State.reject_pending : (s.reject code info).pending = s.pending := rfl
@[simp] theorem State.reject_txSlot : (s.reject code info).txSlot = s.txSlot := rfl
@[simp] theorem State.reject_syncState : (s.reject code info).syncState = s.syncState := rfl
@[simp] theorem State.reject_rxCount : (s.reject code info).rxCount = s.rxCount := rfl
@[simp] theorem State.reject_rxBuf : (s.reject code info).rxBuf = s.rxBuf := rfl
@[simp] theorem State.reject_lastRxMs : (s.reject code info).lastRxMs = s.lastRxMs := rfl
@[simp] theorem State.reject_attached : (s.reject code info).attached = s.attached := rfl
@[simp] theorem State.reject_role : (s.reject code info).role = s.role := rfl
@[simp] theorem State.reject_opState : (s.reject code info).opState = s.opState := rfl
@[simp] theorem State.reject_waitStartMs : (s.reject code info).waitStartMs = s.waitStartMs := rfl
@[simp] theorem State.reject_waitTimeoutMs : (s.reject code info).waitTimeoutMs = s.waitTimeoutMs := rfl
@[simp] theorem State.reject_txWaitStartMs : (s.reject code info).txWaitStartMs = s.txWaitStartMs := rfl
@[simp] theorem State.reject_txWaitLenMs : (s.reject code info).txWaitLenMs = s.txWaitLenMs := rfl
@[simp] theorem State.reject_result : (s.reject code info).result = 0#32 := rfl
@[simp] theorem State.reject_rxq : (s.reject code info).rxq = s.rxq := rfl
@[simp] theorem State.reject_nowMs : (s.reject code info).nowMs = s.nowMs := rfl
@[simp] theorem State.reject_txLog : (s.reject code info).txLog = s.txLog := rfl
@[simp] theorem State.reject_evLog : (s.reject code info).evLog = s.evLog ++ [⟨code, info⟩] := rfl
@[simp] theorem State.reject_port : (s.reject code info).port = s.port := rfl
@[simp] theorem State.reject_agenda : (s.reject code info).agenda = s.agenda := rfl
@[simp] theorem State.reject_cfg : (s.reject code info).cfg = s.cfg := rfl

theorem State.emit_eq : s.emit code info = { s with evLog := s.evLog ++ [⟨code, info⟩] } := rfl

theorem State.setResult_eq : s.setResult v = { s with result := v } := rfl

/-- The whole effect of a rejected command (R194, R202). -/
theorem State.reject_eq : s.reject code info = { s with result := 0#32, evLog := s.evLog ++ [⟨code, info⟩] } := rfl

/-- The whole effect of Stage (R161). -/
theorem State.stage_eq : s.stage = { s with txSlot := s.encodeFrame, pending := true } := rfl

/-- The whole effect of Transmit (R168). -/
theorem State.transmit_eq :
    s.transmit = { s with txLog := s.txLog ++ s.txSlot.toList.map .byte ++ [.flush], pending := false } := rfl

/-- The attachment check, taken (R194). -/
theorem State.whenAttached_of_attached {s : State} (op : Byte) (body : State → State) (h : s.attached = true) :
    s.whenAttached op body = body s := by simp [State.whenAttached, h]

/-- The attachment check, failed (R194). -/
theorem State.whenAttached_of_unattached {s : State} (op : Byte) (body : State → State) (h : s.attached = false) :
    s.whenAttached op body = { s with result := 0#32, evLog := s.evLog ++ [⟨.unattached, op⟩] } := by
  simp [State.whenAttached, h, State.reject_eq]

/-- Everything a command behind the attachment check can do. -/
theorem State.whenAttached_cases (op : Byte) (body : State → State) :
    (s.attached = true ∧ s.whenAttached op body = body s) ∨
    (s.attached = false ∧
      s.whenAttached op body = { s with result := 0#32, evLog := s.evLog ++ [⟨.unattached, op⟩] }) := by
  rcases Bool.eq_false_or_eq_true s.attached with h | h
  · exact .inl ⟨h, State.whenAttached_of_attached op body h⟩
  · exact .inr ⟨h, State.whenAttached_of_unattached op body h⟩

end Sys2Proof.Machine
end

