-- ==== Sys2Proof/Laws/Codec.lean ====
section
/-!
SUPPORT. What the codec's operations do, said once: the closed form of Decode, the fields it leaves alone, and the
checksum as a fold.
-/
namespace Sys2Proof.Machine

/-- TARGET_TEMP after Decode of `f` (R134). -/
def decodedTarget (cfg : Config) (f : Frame) (old : Byte) : Byte :=
  if inTargetRaw f ≤ cfg.tgtRawMax then inTargetRaw f + cfg.tgtTempOffset else old

/-- CURRENT_TEMP after Decode of `f` (R135). -/
def decodedRoom (cfg : Config) (f : Frame) (old : Byte) : Byte :=
  if inPresent f = true ∧ inRoomRaw f ≤ cfg.roomRawMax then inRoomRaw f + cfg.roomTempOffset else old

/-- The events of Decode of `f`, in order (R137, R217). -/
def decodeEvents (cfg : Config) (f : Frame) : List Event :=
  (if inTargetRaw f ≤ cfg.tgtRawMax then [] else [⟨.tgtRange, inTargetRaw f⟩]) ++
    if inPresent f = true ∧ ¬ inRoomRaw f ≤ cfg.roomRawMax then [⟨.roomRange, inRoomRaw f⟩] else []

/-- The whole effect of Decode (R137). -/
theorem State.decodeFrame_eq (f : Frame) (s : State) :
    s.decodeFrame f =
      { s with
        onOff := inPower f
        mode := inMode f
        fan := inFan f
        targetTemp := decodedTarget s.cfg f s.targetTemp
        currentTemp := decodedRoom s.cfg f s.currentTemp
        evLog := s.evLog ++ decodeEvents s.cfg f } := by
  by_cases ht : inTargetRaw f ≤ s.cfg.tgtRawMax <;> cases hp : inPresent f <;>
    by_cases hr : inRoomRaw f ≤ s.cfg.roomRawMax <;>
    simp [State.decodeFrame, State.decodeTarget, State.decodeRoom, State.emit, decodedTarget, decodedRoom, decodeEvents,
      ht, hp, hr]

/-- Decode writes only the five heat-pump registers and the event log (R130). -/
theorem State.decodeFrame_withDecoded (f : Frame) (s : State) : s.decodeFrame f = s.withDecoded (s.decodeFrame f) := by
  rw [State.decodeFrame_eq]; rfl

/-- Decode only appends events, and which it appends does not depend on the log. -/
theorem State.decodeFrame_setLog (f : Frame) (s : State) (ev : List Event) :
    State.decodeFrame f { s with evLog := ev } =
      { s.decodeFrame f with evLog := ev ++ decodeEvents s.cfg f } := by
  simp [State.decodeFrame_eq]

theorem checksum_aux (bytes : List Byte) (acc : Nat) :
    BitVec.ofNat 8 (acc + (bytes.map BitVec.toNat).sum) = bytes.foldl (· + ·) (BitVec.ofNat 8 acc) := by
  induction bytes generalizing acc with
  | nil => simp
  | cons b rest ih =>
    have h : BitVec.ofNat 8 acc + b = BitVec.ofNat 8 (acc + b.toNat) := by
      apply BitVec.eq_of_toNat_eq; simp
    simp only [List.map_cons, List.sum_cons, List.foldl_cons, h]
    rw [← ih, Nat.add_assoc]

/-- A 4-bit count below 15 goes up by one (R102). -/
theorem rxCount_succ {c : BitVec 4} (h : c.toNat < 15) : (c + 1#4).toNat = c.toNat + 1 := by
  simp only [BitVec.toNat_add, BitVec.toNat_ofNat]; omega

end Sys2Proof.Machine
end

