-- ==== Sys2Proof/Laws/Encoding.lean ====
section
/-!
SUPPORT. The two layouts of the command port are bijections: a frame and its data operand (30_encoding.md R83), a command and
its bits (log 9).
-/
namespace Sys2Proof

/-- A frame survives its data operand (R83). -/
theorem frameOfData_dataOfFrame (f : Frame) : frameOfData (dataOfFrame f) = f := by
  unfold frameOfData dataOfFrame
  ext i hi j hj
  interval_cases i <;> interval_cases j <;> simp

/-- A data operand survives its frame (R83). -/
theorem dataOfFrame_frameOfData (d : BitVec 64) : dataOfFrame (frameOfData d) = d := by
  unfold frameOfData dataOfFrame
  apply BitVec.eq_of_getLsbD_eq
  intro i hi
  interval_cases i <;> simp

/-- A command survives its bits (log 9). -/
theorem Command.ofWord_word (c : Command) : Command.ofWord c.word = c := by
  obtain ⟨op, arg, data⟩ := c
  simp only [Command.word, Command.ofWord, Command.mk.injEq]
  refine ⟨?_, ?_, ?_⟩ <;> (apply BitVec.eq_of_getLsbD_eq; intro i hi; interval_cases i <;> simp)

end Sys2Proof
end

