-- ==== Sys2Proof/Laws/Synchronizer.lean ====
section
/-!
SUPPORT. What the byte step and the receive loop can do, said once (40_synchronizer.md): an inversion lemma for SyncByte, and
for the loop its frame, its split over a concatenation, and the induction principle that carries an invariant of the byte
step through it.
-/
namespace Sys2Proof.Machine

/-- Writing within the frame needs no bounds check. -/
theorem setIfInBounds_eq_set (f : Frame) (i : Nat) (b : Byte) (h : i < 8) : f.setIfInBounds i b = f.set i b := by
  ext j hj
  simp [Vector.getElem_set, Vector.getElem_setIfInBounds]

/-- Everything SyncByte can do (R100 to R105), one case a rule. -/
theorem State.syncByte_cases (b : Byte) (s : State) :
    (s.syncState = .scanning ∧ b = s.cfg.syncMarker ∧
      s.syncByte b = ({ s with rxBuf := s.rxBuf.set 0 b, rxCount := 1#4, syncState := .collecting }, false)) ∨
    (s.syncState = .scanning ∧ b ≠ s.cfg.syncMarker ∧
      s.syncByte b = ({ s with evLog := s.evLog ++ [⟨.discard, b⟩] }, false)) ∨
    (s.syncState = .collecting ∧ (s.rxCount.toNat = 0 ∨ 8 ≤ s.rxCount.toNat) ∧
      s.syncByte b =
        ({ s with
            syncState := .scanning, rxCount := 0#4,
            evLog := s.evLog ++ [⟨.overflow, s.rxCount.setWidth 8⟩] }, false)) ∨
    (s.syncState = .collecting ∧ 1 ≤ s.rxCount.toNat ∧ s.rxCount.toNat ≤ 6 ∧
      s.syncByte b = (s.appendByte b, false)) ∨
    (s.syncState = .collecting ∧ s.rxCount = 7#4 ∧ b = s.cfg.endMarker ∧
      s.syncByte b =
        ({ State.decodeFrame (s.rxBuf.set 7 b) { s with evLog := s.evLog ++ [⟨.frameOk, 0x00#8⟩] } with
            rxBuf := s.rxBuf.set 7 b, syncState := .scanning, rxCount := 0#4, lastRxMs := s.nowMs }, true)) ∨
    (s.syncState = .collecting ∧ s.rxCount = 7#4 ∧ b ≠ s.cfg.endMarker ∧
      s.syncByte b =
        ({ s with
            rxBuf := s.rxBuf.set 7 b, syncState := .scanning, rxCount := 0#4,
            evLog := s.evLog ++ [⟨.syncLoss, b⟩] }, false)) := by
  cases hs : s.syncState with
  | scanning =>
    by_cases hb : b = s.cfg.syncMarker
    · exact .inl ⟨rfl, hb, by simp [State.syncByte, hs, State.scanByte, hb]⟩
    · exact .inr (.inl ⟨rfl, hb, by simp [State.syncByte, hs, State.scanByte, hb, State.emit]⟩)
  | collecting =>
    refine .inr (.inr ?_)
    by_cases hg : s.rxCount.toNat = 0 ∨ 8 ≤ s.rxCount.toNat
    · exact .inl ⟨rfl, hg, by simp [State.syncByte, hs, hg, State.guardOverflow, State.rescan, State.emit]⟩
    · have hc : (s.rxCount + 1#4).toNat = s.rxCount.toNat + 1 := rxCount_succ (by omega)
      by_cases h6 : s.rxCount.toNat ≤ 6
      · refine .inr (.inl ⟨rfl, by omega, h6, ?_⟩)
        have : (s.appendByte b).rxCount.toNat < 8 := by simp only [State.appendByte, hc]; omega
        simp only [State.syncByte, hs, if_neg hg, if_pos this]
      · have h7 : s.rxCount = 7#4 := BitVec.eq_of_toNat_eq (by simp; omega)
        refine .inr (.inr ?_)
        by_cases hb : b = s.cfg.endMarker
        · refine .inl ⟨rfl, h7, hb, ?_⟩
          simp [State.syncByte, hs, h7, State.appendByte, State.acceptFrame, State.rescan, State.emit, hb,
            State.decodeFrame_eq, setIfInBounds_eq_set]
        · refine .inr ⟨rfl, h7, hb, ?_⟩
          simp [State.syncByte, hs, h7, State.appendByte, State.loseSync, State.rescan, State.emit, hb,
            setIfInBounds_eq_set]

/-- The fields reception may write, other than RXQ: what the byte step may change (R100, R113). -/
def State.SameButReception (s t : State) : Prop := t = { s.withReception t with rxq := s.rxq }

/-- The byte step's frame: it writes no register outside reception, and not RXQ. -/
theorem State.syncByte_frame (b : Byte) (s : State) : s.SameButReception (s.syncByte b).1 := by
  rcases s.syncByte_cases b with ⟨_, _, h⟩ | ⟨_, _, h⟩ | ⟨_, _, h⟩ | ⟨_, _, _, h⟩ | ⟨_, _, _, h⟩ | ⟨_, _, _, h⟩ <;>
    rw [h] <;> simp [State.SameButReception, State.withReception, State.decodeFrame_eq, State.appendByte]

/-- One turn of the receive loop (R107, R109). -/
theorem State.consume_cons (drain got : Bool) (b : Byte) (rest : List Byte) (s : State) :
    s.consume drain got (b :: rest) =
      if (got || (s.syncByte b).2) && !drain then ({ (s.syncByte b).1 with rxq := rest }, true)
      else State.consume drain (got || (s.syncByte b).2) rest (s.syncByte b).1 := rfl

/-- The byte step neither reads nor writes RXQ. -/
theorem State.syncByte_rxq (b : Byte) (s : State) (q : List Byte) :
    State.syncByte b { s with rxq := q } = ({ (s.syncByte b).1 with rxq := q }, (s.syncByte b).2) := by
  cases hs : s.syncState with
  | scanning =>
    simp only [State.syncByte, hs, State.scanByte]
    split <;> simp [State.emit, hs]
  | collecting =>
    simp only [State.syncByte, hs, State.appendByte, State.acceptFrame, State.decodeFrame_eq]
    split
    · simp [State.guardOverflow, State.rescan, State.emit]
    · split
      · simp
      · split <;> simp [State.loseSync, State.rescan, State.emit]

/-- The receive loop neither reads nor keeps the RXQ of the state it is given. -/
theorem State.consume_rxq (drain got : Bool) (q q' : List Byte) (s : State) :
    State.consume drain got q { s with rxq := q' } = s.consume drain got q := by
  induction q generalizing s got with
  | nil => rfl
  | cons b rest ih => simp only [State.consume_cons, State.syncByte_rxq, ih]

/-- The receive loop's frame. -/
theorem State.consume_frame (drain got : Bool) (q : List Byte) (s : State) :
    (s.consume drain got q).1 = s.withReception (s.consume drain got q).1 ∧ (s.consume drain got q).1.rxq <:+ q := by
  induction q generalizing s got with
  | nil => exact ⟨rfl, by simp [State.consume]⟩
  | cons b rest ih =>
    have hf := s.syncByte_frame b
    rw [State.consume_cons]
    split
    · refine ⟨?_, by simp⟩
      rw [State.SameButReception] at hf
      rw [hf]; rfl
    · obtain ⟨h1, h2⟩ := ih (got || (s.syncByte b).2) (s.syncByte b).1
      refine ⟨?_, h2.trans (List.suffix_cons b rest)⟩
      rw [State.SameButReception] at hf
      rw [h1]
      generalize State.consume _ _ _ _ = r
      rw [hf]; rfl

/-- What the byte step keeps, the receive loop keeps, RXQ being free. -/
theorem State.consume_induction {P : State → Prop} (hq : ∀ s q, P s → P { s with rxq := q })
    (hb : ∀ s b, P s → P (s.syncByte b).1) (drain got : Bool) (q : List Byte) (s : State) (h : P s) :
    P (s.consume drain got q).1 := by
  induction q generalizing s got with
  | nil => exact hq _ _ h
  | cons b rest ih =>
    rw [State.consume_cons]
    split
    · exact hq _ _ (hb _ _ h)
    · exact ih _ _ (hb _ _ h)

/-- Receiving `a` and then `b` is receiving `a ++ b`, for the loop that drains (R110, R115). -/
theorem State.consume_append (got : Bool) (a b : List Byte) (s : State) :
    s.consume true got (a ++ b) = (s.consume true got a).1.consume true (s.consume true got a).2 b := by
  induction a generalizing s got with
  | nil => simp only [State.consume, List.nil_append, State.consume_rxq]
  | cons x a ih => simp only [List.cons_append, State.consume_cons, Bool.not_true, Bool.and_false]; exact ih _ _

/-- The bytes of the candidate begun: RX_BUF[0..RX_COUNT-1] while COLLECTING, none while SCANNING (R30 to R32). -/
def State.candidate (s : State) : List Byte :=
  match s.syncState with
  | .scanning => []
  | .collecting => s.rxBuf.toList.take s.rxCount.toNat

/-- Storing one more byte of a candidate lengthens its leading bytes by that byte. -/
theorem take_set_succ (f : Frame) (n : Nat) (b : Byte) (h : n < 8) :
    (f.set n b).toList.take (n + 1) = f.toList.take n ++ [b] := by
  rw [Vector.toList_set, List.take_add_one, List.take_set_of_le (Nat.le_refl n)]
  simp [h]

/-- The byte step takes its byte into the candidate or drops bytes from the front: what is left, followed by the bytes to come, ends
the sequence there was before; and it decodes a frame exactly where the candidate and the byte are one that ends with the end
marker (R101 to R105). -/
theorem State.syncByte_candidate (b : Byte) (s : State) :
    (s.syncByte b).1.candidate <:+ s.candidate ++ [b] ∧
    ((s.syncByte b).2 = false ∧ (s.syncByte b).1.currentTemp = s.currentTemp ∨
      ∃ f : Frame, f.toList = s.candidate ++ [b] ∧ f[7] = s.cfg.endMarker ∧ (s.syncByte b).2 = true ∧
        (s.syncByte b).1.currentTemp = decodedRoom s.cfg f s.currentTemp) := by
  rcases s.syncByte_cases b with ⟨hs, _, e⟩ | ⟨hs, _, e⟩ | ⟨_, _, e⟩ | ⟨hs, h1, h6, e⟩ | ⟨hs, hc, hb, e⟩ | ⟨_, _, _, e⟩
  · rw [e]
    refine ⟨?_, .inl ⟨rfl, rfl⟩⟩
    have h := take_set_succ s.rxBuf 0 b (by omega)
    simp [State.candidate, hs] at h ⊢
    simp [h]
  · rw [e]; exact ⟨by simp [State.candidate, hs], .inl ⟨rfl, rfl⟩⟩
  · rw [e]; exact ⟨by simp [State.candidate], .inl ⟨rfl, rfl⟩⟩
  · rw [e]
    refine ⟨?_, .inl ⟨rfl, rfl⟩⟩
    simp only [State.candidate, State.appendByte, hs, rxCount_succ (show s.rxCount.toNat < 15 by omega)]
    rw [setIfInBounds_eq_set _ _ _ (by omega), take_set_succ _ _ _ (by omega)]
  · rw [e]
    refine ⟨by simp [State.candidate], .inr ⟨s.rxBuf.set 7 b, ?_, by simpa using hb, rfl, by simp [State.decodeFrame_eq]⟩⟩
    have h := take_set_succ s.rxBuf 7 b (by omega)
    rw [List.take_of_length_le (by simp)] at h
    simpa [State.candidate, hs, hc] using h
  · rw [e]; exact ⟨by simp [State.candidate], .inl ⟨rfl, rfl⟩⟩

/-- What the byte step keeps of a state and the bytes still to come, the receive loop keeps, for some rest of the bytes. -/
theorem State.consume_induction_queue {P : List Byte → State → Prop} (hq : ∀ q s q', P q s → P q { s with rxq := q' })
    (hb : ∀ b rest s, P (b :: rest) s → P rest (s.syncByte b).1) (drain got : Bool) (q : List Byte) (s : State) (h : P q s) :
    ∃ rest, P rest (s.consume drain got q).1 := by
  induction q generalizing s got with
  | nil => exact ⟨[], hq _ _ _ h⟩
  | cons b rest ih =>
    rw [State.consume_cons]
    split
    · exact ⟨rest, hq _ _ _ (hb _ _ _ h)⟩
    · exact ih _ _ (hb _ _ _ h)

end Sys2Proof.Machine
end

