-- ==== Sys2Proof/Laws/Step.lean ====
section
/-!
SUPPORT. What a step can do, said once: the inversion of `step`, and the principle by which a property kept by each kind of
turn is kept by every step.
-/
namespace Sys2Proof.Machine

/-- Where the core moves, the step is its block step on the state the turn leaves. -/
theorem step_of_coreMoves {s : State} (h : s.coreMoves) : step s = s.afterTurn.coreTurn := by
  rcases h with h | ⟨rest, h⟩
  · unfold step
    rw [h]
    simp only [State.afterTurn, h, List.tail_nil]
    rw [← h]
  · unfold step
    rw [h]
    simp only [State.afterTurn, h, List.tail_cons, State.turn]

/-- The block step in IDLE with a command presented (R190). -/
theorem State.coreTurn_of_command {s : State} {c : Command} {rest : List Command} (ho : s.opState = .idle)
    (hp : s.port = c :: rest) : s.coreTurn = State.acceptCommand c { s with port := rest } := by
  have hf : s.fetch = some (c, { s with port := rest }) := by unfold State.fetch; rw [hp]
  have he : s.coreTurn = match s.fetch with
      | some (c, t) => t.acceptCommand c
      | none => .next s := by unfold State.coreTurn; rw [ho] <;> rfl
  rw [he, hf]

/-- The block step in IDLE with no command presented (log 6). -/
theorem State.coreTurn_of_noCommand {s : State} (ho : s.opState = .idle) (hp : s.port = []) : s.coreTurn = .next s := by
  have hf : s.fetch = none := by unfold State.fetch; rw [hp]
  have he : s.coreTurn = match s.fetch with
      | some (c, t) => t.acceptCommand c
      | none => .next s := by unfold State.coreTurn; rw [ho] <;> rfl
  rw [he, hf]

/-- The block step in WAIT_RX (R109). -/
theorem State.coreTurn_of_waitRx {s : State} (ho : s.opState = .waitRx) : s.coreTurn = .next s.waitBusy := by
  unfold State.coreTurn; rw [ho]

/-- The block step in WAIT_TX (R167). -/
theorem State.coreTurn_of_waitTx {s : State} (ho : s.opState = .waitTx) : s.coreTurn = .next s.sendBusy := by
  unfold State.coreTurn; rw [ho]

/-- A command of the map runs (R191). -/
theorem State.acceptCommand_of_ok {c : Command} {i : Instr} (hd : decode c = .ok i) (s : State) :
    s.acceptCommand c = exec i s := by
  unfold State.acceptCommand; rw [hd]

/-- An unassigned opcode reports (R201). -/
theorem State.acceptCommand_of_error {c : Command} {op : Byte} (hd : decode c = .error (.unassignedOpcode op)) (s : State) :
    s.acceptCommand c = .next { s with result := 0#32, evLog := s.evLog ++ [⟨.badCmd, op⟩] } := by
  unfold State.acceptCommand; rw [hd]; rfl

/-- Everything the core's block step can do (R6, R190, R191, R201, R109, R167). -/
theorem State.coreTurn_cases {s t : State} (h : s.coreTurn = .next t) :
    (s.opState = .idle ∧ s.port = [] ∧ t = s) ∨
    (∃ c rest i, s.opState = .idle ∧ s.port = c :: rest ∧ decode c = .ok i ∧ exec i { s with port := rest } = .next t) ∨
    (∃ c rest op, s.opState = .idle ∧ s.port = c :: rest ∧ decode c = .error (.unassignedOpcode op) ∧
      t = { s with port := rest, result := 0#32, evLog := s.evLog ++ [⟨.badCmd, op⟩] }) ∨
    (s.opState = .waitRx ∧ t = s.waitBusy) ∨
    (s.opState = .waitTx ∧ t = s.sendBusy) := by
  unfold State.coreTurn at h
  cases ho : s.opState with
  | idle =>
    cases hp : s.port with
    | nil =>
      simp only [ho, State.fetch, hp] at h
      cases h
      exact .inl ⟨rfl, rfl, rfl⟩
    | cons c rest =>
      simp only [ho, State.fetch, hp, State.acceptCommand] at h
      cases hd : decode c with
      | ok i =>
        simp only [hd] at h
        exact .inr (.inl ⟨c, rest, i, rfl, rfl, hd, h⟩)
      | error r =>
        obtain ⟨op⟩ := r
        simp only [hd] at h
        cases h
        exact .inr (.inr (.inl ⟨c, rest, op, rfl, rfl, hd, by simp [State.unassigned, State.reject_eq]⟩))
  | waitRx =>
    simp only [ho] at h
    cases h
    exact .inr (.inr (.inr (.inl ⟨rfl, rfl⟩)))
  | waitTx =>
    simp only [ho] at h
    cases h
    exact .inr (.inr (.inr (.inr ⟨rfl, rfl⟩)))
  | unused =>
    simp only [ho] at h
    cases h

/-- Everything a step that answers a next state can do. -/
theorem step_cases {s t : State} (h : step s = .next t) :
    (s.coreMoves ∧ s.afterTurn.coreTurn = .next t) ∨
    (∃ bytes, s.agenda.head? = some (.rxArrive bytes) ∧ t = s.afterTurn.rxArrive bytes) ∨
    (∃ ms, s.agenda.head? = some (.clockAdvance ms) ∧ t = s.afterTurn.clockAdvance ms) ∨
    (∃ c, s.agenda.head? = some (.hostPresent c) ∧ t = s.afterTurn.hostPresent c) ∨
    (s.agenda.head? = some .resetAssert ∧ t = s.afterTurn.applyReset) := by
  cases ha : s.agenda with
  | nil =>
    have hm : s.coreMoves := .inl ha
    rw [step_of_coreMoves hm] at h
    exact .inl ⟨hm, h⟩
  | cons turn rest =>
    have hs : step s = s.afterTurn.turn turn := by
      unfold step
      simp only [State.afterTurn, ha, List.tail_cons]
    rw [hs] at h
    cases turn with
    | core => exact .inl ⟨.inr ⟨rest, ha⟩, h⟩
    | rxArrive bytes => cases h; exact .inr (.inl ⟨bytes, rfl, rfl⟩)
    | clockAdvance ms => cases h; exact .inr (.inr (.inl ⟨ms, rfl, rfl⟩))
    | hostPresent c => cases h; exact .inr (.inr (.inr (.inl ⟨c, rfl, rfl⟩)))
    | resetAssert => cases h; exact .inr (.inr (.inr (.inr ⟨rfl, rfl⟩)))
    | secondHost => cases h

/-- A property that no turn of the environment, no instruction and no busy step breaks, no step breaks. -/
theorem step_induction {P : State → Prop} {s t : State} (hs : P s)
    (hPort : ∀ s p, P s → P { s with port := p })
    (hAgenda : ∀ s a, P s → P { s with agenda := a })
    (hRx : ∀ s q, P s → P { s with rxq := q })
    (hClock : ∀ s n, P s → P { s with nowMs := n })
    (hReset : ∀ s, P s → P s.applyReset)
    (hUnassigned : ∀ s op, P s → P { s with result := 0#32, evLog := s.evLog ++ [⟨.badCmd, op⟩] })
    (hExec : ∀ i s t, s.opState = .idle → P s → exec i s = .next t → P t)
    (hWait : ∀ s, s.opState = .waitRx → P s → P s.waitBusy)
    (hSend : ∀ s, s.opState = .waitTx → P s → P s.sendBusy)
    (h : step s = .next t) : P t := by
  have ha : P s.afterTurn := hAgenda _ _ hs
  rcases step_cases h with ⟨_, h⟩ | ⟨_, _, rfl⟩ | ⟨_, _, rfl⟩ | ⟨_, _, rfl⟩ | ⟨_, rfl⟩
  · rcases State.coreTurn_cases h with ⟨_, _, rfl⟩ | ⟨_, rest, i, ho, _, _, he⟩ | ⟨_, rest, _, _, _, _, rfl⟩ |
      ⟨ho, rfl⟩ | ⟨ho, rfl⟩
    · exact ha
    · exact hExec i { s.afterTurn with port := rest } t ho (hPort _ _ ha) he
    · exact hUnassigned { s.afterTurn with port := rest } _ (hPort _ _ ha)
    · exact hWait _ ho ha
    · exact hSend _ ho ha
  · exact hRx _ _ ha
  · exact hClock _ _ ha
  · exact hPort _ _ ha
  · exact hReset _ ha

end Sys2Proof.Machine
end

