-- ==== Sys2Proof/Laws/Exec.lean ====
section
/-!
SUPPORT. What an instruction can do, said once for all fifteen: the inversion of `exec`, and the inversions of the shared
operations behind SEND and the busy steps.
-/
namespace Sys2Proof.Machine

/-- The four setters (R162 to R165). -/
def Setter (i : Instr) : Prop :=
  (∃ on, i = .setPwr on) ∨ (∃ code, i = .setMode code) ∨ (∃ code, i = .setFan code) ∨ ∃ celsius, i = .setTemp celsius

/-- The four registers a setter may write, and then the stage (R161). -/
def State.setAndStage (s : State) (onOff : BitVec 1) (mode fan : BitVec 3) (target : Byte) : State :=
  { s with
    onOff := onOff, mode := mode, fan := fan, targetTemp := target, result := 0#32, pending := true,
    txSlot := outboundFrame s.cfg s.role onOff mode fan target }

/-- Everything SEND's issue step can do on an attached link (R166). -/
theorem State.sendIssue_cases (s : State) :
    (s.pending = false ∧ s.sendIssue = { s with result := 0#32 }) ∨
    (s.pending = true ∧ s.cfg.minTxDelayMs ≤ s.nowMs - s.lastRxMs ∧
      s.sendIssue = { s with
        txLog := s.txLog ++ s.txSlot.toList.map .byte ++ [.flush], pending := false, result := 1#32 }) ∨
    (s.pending = true ∧ s.nowMs - s.lastRxMs < s.cfg.minTxDelayMs ∧
      s.sendIssue = { s with
        txWaitStartMs := s.nowMs, txWaitLenMs := s.cfg.minTxDelayMs - (s.nowMs - s.lastRxMs), opState := .waitTx }) := by
  rcases Bool.eq_false_or_eq_true s.pending with hp | hp
  · refine .inr ?_
    by_cases hd : s.cfg.minTxDelayMs ≤ s.nowMs - s.lastRxMs
    · exact .inl ⟨hp, hd, by simp [State.sendIssue, hp, elapsedAtLeast, hd, State.transmit_eq, State.setResult_eq]⟩
    · exact .inr ⟨hp, BitVec.not_le.mp hd, by simp [State.sendIssue, hp, elapsedAtLeast, hd]⟩
  · exact .inl ⟨hp, by simp [State.sendIssue, hp, State.setResult_eq]⟩

/-- Everything SEND's busy step can do (R167). -/
theorem State.sendBusy_cases (s : State) :
    (s.txWaitLenMs ≤ s.nowMs - s.txWaitStartMs ∧
      s.sendBusy = { s with
        txLog := s.txLog ++ s.txSlot.toList.map .byte ++ [.flush], pending := false, result := 1#32, opState := .idle }) ∨
    (s.nowMs - s.txWaitStartMs < s.txWaitLenMs ∧ s.sendBusy = s) := by
  by_cases hd : s.txWaitLenMs ≤ s.nowMs - s.txWaitStartMs
  · exact .inl ⟨hd, by simp [State.sendBusy, elapsedAtLeast, hd, State.transmit_eq, State.setResult_eq]⟩
  · exact .inr ⟨BitVec.not_le.mp hd, by simp [State.sendBusy, elapsedAtLeast, hd]⟩

/-- Everything WAIT's busy step can do (R109). -/
theorem State.waitBusy_cases (s : State) :
    ((s.receive false).2 = true ∧ s.waitBusy = { (s.receive false).1 with result := 1#32, opState := .idle }) ∨
    ((s.receive false).2 = false ∧ s.waitTimeoutMs ≤ s.nowMs - s.waitStartMs ∧
      s.waitBusy = { (s.receive false).1 with
        result := 0#32, opState := .idle, evLog := (s.receive false).1.evLog ++ [⟨.timeout, 0x00#8⟩] }) ∨
    ((s.receive false).2 = false ∧ s.nowMs - s.waitStartMs < s.waitTimeoutMs ∧ s.waitBusy = (s.receive false).1) := by
  rcases Bool.eq_false_or_eq_true (s.receive false).2 with hr | hr
  · exact .inl ⟨hr, by simp [State.waitBusy, hr, State.setResult_eq]⟩
  · refine .inr ?_
    by_cases hd : s.waitTimeoutMs ≤ s.nowMs - s.waitStartMs
    · exact .inl ⟨hr, hd, by simp [State.waitBusy, hr, elapsedAtLeast, hd, State.reject_eq]⟩
    · exact .inr ⟨hr, BitVec.not_le.mp hd, by simp [State.waitBusy, hr, elapsedAtLeast, hd]⟩

/-- Everything an instruction can do: fail with one event, write RESULT alone, or its own effect on an attached link (ATTACH: on
an unattached one). -/
theorem exec_cases {i : Instr} {s t : State} (h : exec i s = .next t) :
    (∃ code info, t = { s with result := 0#32, evLog := s.evLog ++ [⟨code, info⟩] }) ∨
    (∃ v, t = { s with result := v }) ∨
    (∃ role, i = .attach role ∧ s.attached = false ∧ t = { s with role := role, attached := true, result := 1#32 }) ∨
    (i = .poll ∧ s.attached = true ∧ t = s.poll) ∨
    (∃ ms, i = .wait ms ∧ s.attached = true ∧
      t = { s with waitStartMs := s.nowMs, waitTimeoutMs := ms, opState := .waitRx }) ∨
    (i = .send ∧ s.attached = true ∧ t = s.sendIssue) ∨
    (∃ f, i = .decodeExt 8#4 f ∧ s.attached = true ∧ t = { s.decodeFrame f with result := 1#32 }) ∨
    (Setter i ∧ s.attached = true ∧ ∃ onOff mode fan target, t = s.setAndStage onOff mode fan target) := by
  cases i with
  | attach role =>
    cases h
    rcases Bool.eq_false_or_eq_true s.attached with ha | ha
    · exact .inl ⟨.reattach, role.code.setWidth 8, by simp [ha, State.reject_eq]⟩
    · exact .inr (.inr (.inl ⟨role, rfl, ha, by simp [ha, State.setResult_eq]⟩))
  | poll =>
    cases h
    rcases State.whenAttached_cases s _ State.poll with ⟨ha, he⟩ | ⟨_, he⟩ <;> rw [he]
    · exact .inr (.inr (.inr (.inl ⟨rfl, ha, rfl⟩)))
    · exact .inl ⟨_, _, rfl⟩
  | wait ms =>
    cases h
    rcases State.whenAttached_cases s (Instr.wait ms).opcode
      (fun s => { s with waitStartMs := s.nowMs, waitTimeoutMs := ms, opState := .waitRx }) with ⟨ha, he⟩ | ⟨_, he⟩ <;> rw [he]
    · exact .inr (.inr (.inr (.inr (.inl ⟨ms, rfl, ha, rfl⟩))))
    · exact .inl ⟨_, _, rfl⟩
  | send =>
    cases h
    rcases State.whenAttached_cases s _ State.sendIssue with ⟨ha, he⟩ | ⟨_, he⟩ <;> rw [he]
    · exact .inr (.inr (.inr (.inr (.inr (.inl ⟨rfl, ha, rfl⟩)))))
    · exact .inl ⟨_, _, rfl⟩
  | decodeExt len f =>
    cases h
    rcases State.whenAttached_cases s (Instr.decodeExt len f).opcode (fun s =>
      if len = 8#4 then (s.decodeFrame f).setResult 1#32 else s.reject .badLen (len.setWidth 8)) with ⟨ha, he⟩ | ⟨_, he⟩ <;> rw [he]
    · by_cases hl : len = 8#4
      · subst hl
        exact .inr (.inr (.inr (.inr (.inr (.inr (.inl ⟨f, rfl, ha, by simp [State.setResult_eq]⟩))))))
      · exact .inl ⟨.badLen, len.setWidth 8, by simp [hl, State.reject_eq]⟩
    · exact .inl ⟨_, _, rfl⟩
  | setPwr on =>
    cases h
    rcases State.whenAttached_cases s (Instr.setPwr on).opcode (fun s =>
      if on = (s.setResult 0#32).onOff then s.setResult 0#32 else { s.setResult 0#32 with onOff := on }.stage)
      with ⟨ha, he⟩ | ⟨_, he⟩
    · by_cases hc : on = s.onOff
      · exact .inr (.inl ⟨0#32, he.trans (by simp [hc, State.setResult_eq])⟩)
      · exact .inr (.inr (.inr (.inr (.inr (.inr (.inr ⟨.inl ⟨on, rfl⟩, ha, on, s.mode, s.fan, s.targetTemp,
          he.trans (by simp [hc, State.setAndStage, State.stage_eq, State.encodeFrame])⟩))))))
    · exact .inl ⟨_, _, he⟩
  | setMode code =>
    cases h
    by_cases hl : modeCodeLegal code = true
    · rw [if_pos hl]
      rcases State.whenAttached_cases s (Instr.setMode code).opcode (fun s =>
        if code = (s.setResult 0#32).mode then s.setResult 0#32 else { s.setResult 0#32 with mode := code }.stage)
        with ⟨ha, he⟩ | ⟨_, he⟩
      · by_cases hc : code = s.mode
        · exact .inr (.inl ⟨0#32, he.trans (by simp [hc, State.setResult_eq])⟩)
        · exact .inr (.inr (.inr (.inr (.inr (.inr (.inr ⟨.inr (.inl ⟨code, rfl⟩), ha, s.onOff, code, s.fan, s.targetTemp,
            he.trans (by simp [hc, State.setAndStage, State.stage_eq, State.encodeFrame])⟩))))))
      · exact .inl ⟨_, _, he⟩
    · rw [if_neg hl]
      exact .inl ⟨_, _, State.reject_eq _ _ _⟩
  | setFan code =>
    cases h
    by_cases hl : fanCodeLegal code = true
    · rw [if_pos hl]
      rcases State.whenAttached_cases s (Instr.setFan code).opcode (fun s =>
        if code = (s.setResult 0#32).fan then s.setResult 0#32 else { s.setResult 0#32 with fan := code }.stage)
        with ⟨ha, he⟩ | ⟨_, he⟩
      · by_cases hc : code = s.fan
        · exact .inr (.inl ⟨0#32, he.trans (by simp [hc, State.setResult_eq])⟩)
        · exact .inr (.inr (.inr (.inr (.inr (.inr (.inr ⟨.inr (.inr (.inl ⟨code, rfl⟩)), ha, s.onOff, s.mode, code,
            s.targetTemp, he.trans (by simp [hc, State.setAndStage, State.stage_eq, State.encodeFrame])⟩))))))
      · exact .inl ⟨_, _, he⟩
    · rw [if_neg hl]
      exact .inl ⟨_, _, State.reject_eq _ _ _⟩
  | setTemp celsius =>
    cases h
    rcases State.whenAttached_cases s (Instr.setTemp celsius).opcode (fun s =>
      if celsius = (s.setResult 0#32).targetTemp then s.setResult 0#32
      else { s.setResult 0#32 with targetTemp := celsius }.stage)
      with ⟨ha, he⟩ | ⟨_, he⟩
    · by_cases hc : celsius = s.targetTemp
      · exact .inr (.inl ⟨0#32, he.trans (by simp [hc, State.setResult_eq])⟩)
      · exact .inr (.inr (.inr (.inr (.inr (.inr (.inr ⟨.inr (.inr (.inr ⟨celsius, rfl⟩)), ha, s.onOff, s.mode, s.fan, celsius,
          he.trans (by simp [hc, State.setAndStage, State.stage_eq, State.encodeFrame])⟩))))))
    · exact .inl ⟨_, _, he⟩
  | getPower => cases h; exact .inr (.inl ⟨_, State.setResult_eq _ _⟩)
  | getMode => cases h; exact .inr (.inl ⟨_, State.setResult_eq _ _⟩)
  | getFan => cases h; exact .inr (.inl ⟨_, State.setResult_eq _ _⟩)
  | getTarget => cases h; exact .inr (.inl ⟨_, State.setResult_eq _ _⟩)
  | getCurrent => cases h; exact .inr (.inl ⟨_, State.setResult_eq _ _⟩)
  | getPending => cases h; exact .inr (.inl ⟨_, State.setResult_eq _ _⟩)

/-- The frame of the receive loop, as POLL and WAIT's busy step use it (R113). -/
theorem State.receive_frame (drain : Bool) (s : State) :
    (s.receive drain).1 = s.withReception (s.receive drain).1 ∧ (s.receive drain).1.rxq <:+ s.rxq :=
  State.consume_frame drain false s.rxq s

/-- POLL's frame on an attached link (R107, R113). -/
theorem State.poll_frame (s : State) : s.poll = { s.withReception s.poll with result := s.poll.result } := by
  have h := (s.receive_frame s.cfg.pollDrain).1
  simp only [State.poll, State.setResult_eq]
  generalize s.receive s.cfg.pollDrain = r at *
  rw [h]; rfl

/-- The frame of WAIT's busy step (R109, R113). -/
theorem State.waitBusy_frame (s : State) : s.waitBusy =
    { s.withReception s.waitBusy with result := s.waitBusy.result, opState := s.waitBusy.opState } := by
  have h := (s.receive_frame false).1
  rcases s.waitBusy_cases with ⟨_, e⟩ | ⟨_, _, e⟩ | ⟨_, _, e⟩ <;> rw [e] <;> generalize s.receive false = r at * <;>
    rw [h] <;> rfl

/-- No instruction writes the clock or the configuration, or takes a turn from the agenda. -/
theorem exec_keeps {i : Instr} {s t : State} (h : exec i s = .next t) :
    t.cfg = s.cfg ∧ t.agenda = s.agenda ∧ t.nowMs = s.nowMs := by
  rcases exec_cases h with ⟨_, _, rfl⟩ | ⟨_, rfl⟩ | ⟨_, rfl, _, rfl⟩ | ⟨rfl, _, rfl⟩ | ⟨_, rfl, _, rfl⟩ | ⟨rfl, _, rfl⟩ |
    ⟨_, rfl, _, rfl⟩ | ⟨_, _, _, _, _, _, rfl⟩
  · exact ⟨rfl, rfl, rfl⟩
  · exact ⟨rfl, rfl, rfl⟩
  · exact ⟨rfl, rfl, rfl⟩
  · rw [State.poll_frame]; exact ⟨rfl, rfl, rfl⟩
  · exact ⟨rfl, rfl, rfl⟩
  · rcases s.sendIssue_cases with ⟨_, e⟩ | ⟨_, _, e⟩ | ⟨_, _, e⟩ <;> rw [e] <;> exact ⟨rfl, rfl, rfl⟩
  · rw [State.decodeFrame_eq]; exact ⟨rfl, rfl, rfl⟩
  · exact ⟨rfl, rfl, rfl⟩

end Sys2Proof.Machine
end

