-- ==== Sys2Proof/Laws/Logs.lean ====
section
/-!
SUPPORT. Reception appends to the event log and never reads it (60_exceptions.md R211): the byte step and the receive loop on
a state with other logs.
-/
namespace Sys2Proof.Machine

theorem State.withLogs_eq (s : State) (ev : List Event) (tx : List TxItem) :
    s.withLogs ev tx = { s with evLog := ev, txLog := tx } := rfl

/-- The byte step appends events that do not depend on the logs. -/
theorem State.syncByte_withLogs (s : State) (b : Byte) :
    ∃ new, (s.syncByte b).1.evLog = s.evLog ++ new ∧ ∀ ev tx,
      State.syncByte b (s.withLogs ev tx) = ((s.syncByte b).1.withLogs (ev ++ new) tx, (s.syncByte b).2) := by
  cases hs : s.syncState with
  | scanning =>
    simp only [State.syncByte, hs, State.scanByte, State.withLogs_eq]
    split
    · exact ⟨[], by simp, fun ev tx => by simp⟩
    · exact ⟨[⟨.discard, b⟩], by simp [State.emit], fun ev tx => by simp [State.emit, hs]⟩
  | collecting =>
    simp only [State.syncByte, hs, State.appendByte, State.acceptFrame, State.decodeFrame_eq, State.withLogs_eq]
    split
    · exact ⟨_, rfl, fun ev tx => by simp [State.guardOverflow, State.rescan, State.emit]⟩
    · split
      · exact ⟨[], by simp, fun ev tx => by simp⟩
      · split
        · refine ⟨[⟨.frameOk, 0x00#8⟩] ++ decodeEvents s.cfg (s.rxBuf.setIfInBounds s.rxCount.toNat b), ?_, fun ev tx => ?_⟩ <;>
            simp [State.rescan, State.emit]
        · exact ⟨_, rfl, fun ev tx => by simp [State.loseSync, State.rescan, State.emit]⟩

/-- So does the receive loop. -/
theorem State.consume_withLogs (drain got : Bool) (q : List Byte) (s : State) :
    ∃ new, (s.consume drain got q).1.evLog = s.evLog ++ new ∧ ∀ ev tx,
      State.consume drain got q (s.withLogs ev tx) =
        ((s.consume drain got q).1.withLogs (ev ++ new) tx, (s.consume drain got q).2) := by
  induction q generalizing s got with
  | nil => exact ⟨[], by simp [State.consume], fun ev tx => by rw [List.append_nil]; rfl⟩
  | cons b rest ih =>
    obtain ⟨n1, h1, k1⟩ := s.syncByte_withLogs b
    simp only [State.consume_cons, k1]
    split
    · exact ⟨n1, h1, fun ev tx => rfl⟩
    · obtain ⟨n2, h2, k2⟩ := ih (got || (s.syncByte b).2) (s.syncByte b).1
      exact ⟨n1 ++ n2, by rw [h2, h1, List.append_assoc], fun ev tx => by rw [k2, List.append_assoc]⟩

/-- Reception does not touch the TX log (R58). -/
theorem State.consume_txLog (drain got : Bool) (q : List Byte) (s : State) :
    (s.consume drain got q).1.txLog = s.txLog := by
  rw [(s.consume_frame drain got q).1]; rfl

end Sys2Proof.Machine
end

