-- ==== Sys2Proof/Laws/PerInstr.lean ====
section
/-!
SUPPORT. A family of lemmas stated per instruction: the encoder leaves every reserved operand bit 0 (30_encoding.md R84).
-/
namespace Sys2Proof.Laws.ReservedBitsClear

/-- The encoded command is unchanged when its reserved operand bits are cleared. -/
def Statement (i : Instr) : Prop := (encode i).clearReserved = encode i

theorem attach (role : Role) : Statement (.attach role) := by cases role <;> rfl
theorem poll : Statement .poll := rfl
theorem wait (timeoutMs : Ms) : Statement (.wait timeoutMs) :=
  congrArg (Command.mk 0x03#8 · 0#64) (BitVec.and_allOnes (x := timeoutMs))
theorem send : Statement .send := rfl
theorem decodeExt (len : BitVec 4) (frame : Frame) : Statement (.decodeExt len frame) :=
  congrArg (Command.mk 0x05#8 · (dataOfFrame frame)) (show len.setWidth 32 &&& 0xF#32 = len.setWidth 32 by revert len; decide)
theorem setPwr (on : BitVec 1) : Statement (.setPwr on) := by unfold Statement; revert on; decide
theorem setMode (code : BitVec 3) : Statement (.setMode code) := by unfold Statement; revert code; decide
theorem setFan (code : BitVec 3) : Statement (.setFan code) := by unfold Statement; revert code; decide
theorem setTemp (celsius : Byte) : Statement (.setTemp celsius) :=
  congrArg (Command.mk 0x13#8 · 0#64) (show celsius.setWidth 32 &&& 0xFF#32 = celsius.setWidth 32 by revert celsius; decide)
theorem getPower : Statement .getPower := rfl
theorem getMode : Statement .getMode := rfl
theorem getFan : Statement .getFan := rfl
theorem getTarget : Statement .getTarget := rfl
theorem getCurrent : Statement .getCurrent := rfl
theorem getPending : Statement .getPending := rfl

end Sys2Proof.Laws.ReservedBitsClear
end

