-- ==== Sys2Proof/Laws/Scan.lean ====
section
/-!
SUPPORT. The byte step along one candidate, and what a whole candidate, a discarded byte and a partial candidate do to the
receive loop (40_synchronizer.md R101 to R104, R111).
-/
namespace Sys2Proof.Machine

/-- A frame is its eight bytes. -/
theorem frame_eq (f : Frame) : f = #v[f[0], f[1], f[2], f[3], f[4], f[5], f[6], f[7]] := by
  ext i hi
  interval_cases i <;> simp

/-- The bytes of a frame as a list, byte 0 first (R53). -/
theorem frame_toList (f : Frame) : f.toList = [f[0], f[1], f[2], f[3], f[4], f[5], f[6], f[7]] := by
  conv_lhs => rw [frame_eq f]
  rfl

/-- Writing every byte of a frame gives the frame of those bytes. -/
theorem frame_set (f : Frame) (b0 b1 b2 b3 b4 b5 b6 b7 : Byte) :
    (((((((f.set 0 b0).set 1 b1).set 2 b2).set 3 b3).set 4 b4).set 5 b5).set 6 b6).set 7 b7 =
      #v[b0, b1, b2, b3, b4, b5, b6, b7] := by
  ext i hi
  simp only [Vector.getElem_set]
  interval_cases i <;> simp

/-- SCANNING, the marker (R101). -/
theorem State.syncByte_marker {s : State} (h : s.syncState = .scanning) :
    s.syncByte s.cfg.syncMarker =
      ({ s with rxBuf := s.rxBuf.set 0 s.cfg.syncMarker, rxCount := 1#4, syncState := .collecting }, false) := by
  simp [State.syncByte, h, State.scanByte]

/-- COLLECTING with one to six bytes held (R102). -/
theorem State.syncByte_append {s : State} {n : Nat} (b : Byte) (h : s.syncState = .collecting)
    (hn : s.rxCount = BitVec.ofNat 4 n) (h1 : 1 ≤ n) (h6 : n ≤ 6) :
    s.syncByte b = ({ s with rxBuf := s.rxBuf.set n b, rxCount := BitVec.ofNat 4 (n + 1) }, false) := by
  have hn' : s.rxCount.toNat = n := by rw [hn]; simp; omega
  have hc : s.rxCount + 1#4 = BitVec.ofNat 4 (n + 1) := by rw [hn]; apply BitVec.eq_of_toNat_eq; simp
  simp only [State.syncByte, h, State.appendByte, hn', hc, setIfInBounds_eq_set s.rxBuf n b (by omega)]
  rw [if_neg (by omega), if_pos (by simp; omega)]

/-- COLLECTING with seven bytes held (R103, R104). -/
theorem State.syncByte_last {s : State} (b : Byte) (h : s.syncState = .collecting) (hn : s.rxCount = 7#4) :
    s.syncByte b =
      if b = s.cfg.endMarker then
        ({ State.decodeFrame (s.rxBuf.set 7 b) { s with evLog := s.evLog ++ [⟨.frameOk, 0x00#8⟩] } with
            rxBuf := s.rxBuf.set 7 b, syncState := .scanning, rxCount := 0#4, lastRxMs := s.nowMs }, true)
      else
        ({ s with
            rxBuf := s.rxBuf.set 7 b, syncState := .scanning, rxCount := 0#4,
            evLog := s.evLog ++ [⟨.syncLoss, b⟩] }, false) := by
  rcases s.syncByte_cases b with ⟨g, _, _⟩ | ⟨g, _, _⟩ | ⟨_, g, _⟩ | ⟨_, _, g, _⟩ | ⟨_, _, g, e⟩ | ⟨_, _, g, e⟩
  · simp [h] at g
  · simp [h] at g
  · simp [hn] at g
  · simp [hn] at g
  · rw [e, if_pos g]
  · rw [e, if_neg g]

/-- A candidate of eight bytes, read from SCANNING by a loop that goes on after it or stops at it (R111). -/
theorem State.consume_candidate {s : State} {drain got : Bool} {b0 : Byte} (rest : List Byte) (b1 b2 b3 b4 b5 b6 b7 : Byte)
    (h : s.syncState = .scanning) (hc : s.rxCount = 0#4) (h0 : b0 = s.cfg.syncMarker) (hg : (got && !drain) = false) :
    s.consume drain got (b0 :: b1 :: b2 :: b3 :: b4 :: b5 :: b6 :: b7 :: rest) =
      if b7 = s.cfg.endMarker then
        (if drain then State.consume drain true rest (ScanItem.apply s (.accepted #v[b0, b1, b2, b3, b4, b5, b6, b7]))
          else ({ ScanItem.apply s (.accepted #v[b0, b1, b2, b3, b4, b5, b6, b7]) with rxq := rest }, true))
      else State.consume drain got rest (ScanItem.apply s (.failed #v[b0, b1, b2, b3, b4, b5, b6, b7])) := by
  subst h0
  rw [State.consume_cons, State.syncByte_marker h]
  simp only [Bool.or_false, hg, if_neg Bool.false_ne_true]
  iterate 6 (
    rw [State.consume_cons, State.syncByte_append _ rfl rfl (by decide) (by decide)]
    simp only [Bool.or_false, hg, if_neg Bool.false_ne_true, Nat.reduceAdd])
  rw [State.consume_cons, State.syncByte_last _ rfl rfl]
  simp only [frame_set]
  split
  · cases drain <;> simp [ScanItem.apply, State.emit, State.decodeFrame_eq, h, hc]
  · simp only [Bool.or_false, hg, if_neg Bool.false_ne_true]
    simp [ScanItem.apply, State.emit, h, hc]

/-- A byte other than the marker, read from SCANNING (R101). -/
theorem State.consume_discard {s : State} {drain got : Bool} {b : Byte} (rest : List Byte) (h : s.syncState = .scanning)
    (h0 : b ≠ s.cfg.syncMarker) (hg : (got && !drain) = false) :
    s.consume drain got (b :: rest) = State.consume drain got rest (ScanItem.apply s (.discarded b)) := by
  have hb : s.syncByte b = (s.emit .discard b, false) := by simp [State.syncByte, h, State.scanByte, h0]
  rw [State.consume_cons, hb]
  simp only [Bool.or_false, hg, if_neg Bool.false_ne_true]
  rfl

/-- The rest of a partial candidate at the end of the bytes available (R102, R110). -/
theorem State.consume_held {s : State} {n : Nat} (got : Bool) (bytes : List Byte) (h : s.syncState = .collecting)
    (hn : s.rxCount = BitVec.ofNat 4 n) (h1 : 1 ≤ n) (hl : n + bytes.length ≤ 7) :
    s.consume true got bytes =
      ({ s with rxBuf := overwrite s.rxBuf n bytes, rxCount := BitVec.ofNat 4 (n + bytes.length), rxq := [] }, got) := by
  induction bytes generalizing s n with
  | nil => simp [State.consume, overwrite, ← hn]
  | cons b rest ih =>
    simp only [List.length_cons] at hl
    rw [State.consume_cons, State.syncByte_append b h hn h1 (by omega)]
    simp only [Bool.or_false, Bool.not_true, Bool.and_false, if_neg Bool.false_ne_true]
    rw [ih (s := { s with rxBuf := s.rxBuf.set n b, rxCount := BitVec.ofNat 4 (n + 1) }) (n := n + 1) h rfl
      (by omega) (by omega)]
    have e : n + 1 + rest.length = n + (rest.length + 1) := by omega
    simp [overwrite, setIfInBounds_eq_set s.rxBuf n b (by omega), e]

/-- A part of the sequence other than a partial candidate leaves the machine SCANNING as before. -/
theorem ScanItem.apply_scanning (s : State) (item : ScanItem) (h : ∀ bytes, item ≠ .held bytes) :
    (item.apply s).syncState = s.syncState ∧ (item.apply s).rxCount = s.rxCount ∧ (item.apply s).cfg = s.cfg := by
  cases item with
  | discarded b => exact ⟨rfl, rfl, rfl⟩
  | accepted f => simp [ScanItem.apply, State.decodeFrame_eq]
  | failed f => exact ⟨rfl, rfl, rfl⟩
  | held bytes => exact absurd rfl (h bytes)

end Sys2Proof.Machine
end

