-- ==== Sys2Proof/Tests/Slice0.lean ====
section
/-!
SUPPORT. Small tests of one decode or one step, their expected values from 30_encoding.md and 95_test_vectors.md, and for
every statement with hypotheses a state and operands that meet them.
-/
namespace Sys2Proof.Tests
open Sys2Proof Sys2Proof.Machine

/-! ### Helpers -/

/-- The parameters of the test vectors: role codes 0x00 and 0x01, and CURRENT_TEMP_INIT 0x63 (95_test_vectors.md section 0). -/
def cfg : Config where
  syncMarker := 0xFE#8
  endMarker := 0xEB#8
  minTxDelayMs := 60#32
  tgtTempOffset := 16#8
  tgtRawMax := 14#8
  roomTempOffset := 0#8
  roomRawMax := 50#8
  roleCodePrimary := 0x00#8
  roleCodeSecondary := 0x01#8
  pollDrain := false
  currentTempInit := 0x63#8

/-- Reset with the vectors' parameters. -/
def boot : State := State.launch cfg [] 0#32 [] []

/-- The vectors' attached state. -/
def linked : State := { boot with attached := true, result := 1#32 }

/-- Linked, at the clock value `now`, with bytes available. -/
def linkedAt (now : Nat) (rxq : List Byte) : State := { linked with nowMs := BitVec.ofNat 32 now, rxq := rxq }

/-- Vector S1's frame. -/
def s1 : List Byte := [0xFE#8, 0x00#8, 0x00#8, 0x01#8, 0x05#8, 0x00#8, 0x01#8, 0xEB#8]

/-- Vector S1's frame, as a frame. -/
def k1 : Frame := #v[0xFE#8, 0x00#8, 0x00#8, 0x01#8, 0x05#8, 0x00#8, 0x01#8, 0xEB#8]

/-- After vector M1 (SETPWR 1): a frame is pending. -/
def m1 : State :=
  { linked with onOff := 1#1, pending := true, txSlot := #v[0xFE#8, 0x00#8, 0x01#8, 0x05#8, 0x06#8, 0x00#8, 0x00#8, 0x0A#8] }

/-- Vector X2: a SEND that waits, begun at 5 with 55 ms to wait. -/
def x2 : State := { m1 with opState := .waitTx, txWaitStartMs := 5#32, txWaitLenMs := 55#32, nowMs := 5#32 }

/-- Vector T1: a WAIT of 5000 begun at 100. -/
def t1 : State := { linked with opState := .waitRx, waitStartMs := 100#32, waitTimeoutMs := 5000#32, nowMs := 100#32 }

/-- Seven bytes of a candidate held. -/
def seven : State :=
  { linked with
    syncState := .collecting, rxCount := 7#4,
    rxBuf := #v[0xFE#8, 0x00#8, 0x00#8, 0x01#8, 0x05#8, 0x00#8, 0x01#8, 0x00#8] }

/-- What is read off the next state. -/
def after {α : Type} (f : State → α) : Host.Outcome State Fault Refusal → Option α
  | .next t => some (f t)
  | .fault _ => none
  | .refused _ => none

/-- One step that accepts the command. -/
def accept (s : State) (op : Byte) (arg : Word) (data : BitVec 64) : Host.Outcome State Fault Refusal :=
  step (s.withCommand ⟨op, arg, data⟩)

/-! ### WellFormed: each check refuses an ill-formed term (30_encoding.md R83) -/

theorem test_wf_mode_6 : (Instr.setMode 6#3).wellFormed = false := by decide
theorem test_wf_mode_7 : (Instr.setMode 7#3).wellFormed = false := by decide
theorem test_wf_mode_5 : (Instr.setMode 5#3).wellFormed = true := by decide
theorem test_wf_fan_5 : (Instr.setFan 5#3).wellFormed = false := by decide
theorem test_wf_fan_4 : (Instr.setFan 4#3).wellFormed = true := by decide

/-! ### Decode: every constructor's word, written out from R82 and R83 -/

theorem test_decode_attach : decode ⟨0x01#8, 0xFFFFFFFE#32, 0#64⟩ = .ok (.attach .primary) := by decide
theorem test_decode_poll : decode ⟨0x02#8, 0xFFFFFFFF#32, 1#64⟩ = .ok .poll := by decide
theorem test_decode_wait : decode ⟨0x03#8, 0x80000001#32, 0#64⟩ = .ok (.wait 0x80000001#32) := by decide
theorem test_decode_send : decode ⟨0x04#8, 0#32, 0#64⟩ = .ok .send := by decide
/-- Vector F6: arg[3:0] = 8, the bytes 00 00 00 00 07 0E 29 00. -/
theorem test_decode_decodeExt : decode ⟨0x05#8, 0xFFFFFFF8#32, 0x00290E0700000000#64⟩ =
    .ok (.decodeExt 8#4 #v[0x00#8, 0x00#8, 0x00#8, 0x00#8, 0x07#8, 0x0E#8, 0x29#8, 0x00#8]) := by decide
theorem test_decode_setPwr : decode ⟨0x10#8, 0xFFFFFFFF#32, 0#64⟩ = .ok (.setPwr 1#1) := by decide
theorem test_decode_setMode : decode ⟨0x11#8, 0xFFFFFFFC#32, 0#64⟩ = .ok (.setMode 4#3) := by decide
theorem test_decode_setFan : decode ⟨0x12#8, 0x00000004#32, 0#64⟩ = .ok (.setFan 4#3) := by decide
theorem test_decode_setTemp : decode ⟨0x13#8, 0x00000123#32, 0#64⟩ = .ok (.setTemp 0x23#8) := by decide
theorem test_decode_getPower : decode ⟨0x20#8, 0#32, 0#64⟩ = .ok .getPower := by decide
theorem test_decode_getMode : decode ⟨0x21#8, 0#32, 0#64⟩ = .ok .getMode := by decide
theorem test_decode_getFan : decode ⟨0x22#8, 0#32, 0#64⟩ = .ok .getFan := by decide
theorem test_decode_getTarget : decode ⟨0x23#8, 0#32, 0#64⟩ = .ok .getTarget := by decide
theorem test_decode_getCurrent : decode ⟨0x24#8, 0#32, 0#64⟩ = .ok .getCurrent := by decide
theorem test_decode_getPending : decode ⟨0x25#8, 0#32, 0#64⟩ = .ok .getPending := by decide
theorem test_decode_unassigned : decode ⟨0xFF#8, 0xFFFFFFFF#32, 0#64⟩ = .error (.unassignedOpcode 0xFF#8) := by decide
/-- The table's numbering: op in bits 7:0, arg from bit 8 on; bits above `nbits` are 0. -/
theorem test_table_word : decodeTableWord 40 0x211 = some (.setMode 2#3) ∧ decodeTableWord 8 0x211 = some (.setMode 0#3) ∧
    decodeTableWord 8 0x06 = none := by decide

/-! ### The assembler (R87, R88) -/

theorem test_asm_wait : assembleLine "WAIT 0x3E8 ; one second".toList = .emits ⟨0x03#8, 1000#32, 0#64⟩ := by decide
/-- Vector F1's command. -/
theorem test_asm_decodeExt : assembleLine "DECODE_EXT 0xFE 0 0 1 5 0 1 0xEB".toList =
    .emits ⟨0x05#8, 8#32, 0xEB010005010000FE#64⟩ := by decide
theorem test_asm_error : assembleLine "SETMODE 8".toList = .error ∧ assembleLine "SETMODE 6".toList = .emits ⟨0x11#8, 6#32, 0#64⟩ ∧
    assembleLine "; note".toList = .nothing := by decide

/-! ### One step, at most two tests a command (vectors of 95_test_vectors.md) -/

/-- Vector H2. -/
theorem test_attach_secondary : after (fun t => (t.attached, t.role, t.result, t.evLog)) (accept boot 0x01#8 1#32 0#64) =
    some (true, .secondary, 1#32, []) := by decide
/-- Vector H3. -/
theorem test_attach_again : after (fun t => (t.role, t.result, t.evLog)) (accept linked 0x01#8 1#32 0#64) =
    some (.primary, 0#32, [⟨.reattach, 0x01#8⟩]) := by decide
/-- Vector S5. -/
theorem test_poll_noise :
    after (fun t => (t.mode, t.targetTemp, t.currentTemp, t.lastRxMs, t.evLog))
      (accept (linkedAt 700 [0x12#8, 0xEB#8, 0x00#8, 0xFE#8, 0x00#8, 0x00#8, 0x25#8, 0x08#8, 0x00#8, 0x51#8, 0xEB#8]) 0x02#8 0#32 0#64) =
    some (2#3, 24#8, 40#8, 700#32,
      [⟨.discard, 0x12#8⟩, ⟨.discard, 0xEB#8⟩, ⟨.discard, 0x00#8⟩, ⟨.frameOk, 0x00#8⟩]) := by decide
/-- Vector S3: a marker inside a candidate hides a true frame. -/
theorem test_poll_spurious_marker :
    after (fun t => (t.targetTemp, t.lastRxMs, t.result, t.syncState, t.evLog))
      (accept (linkedAt 500
        [0xFE#8, 0x11#8, 0x22#8, 0xFE#8, 0x00#8, 0x00#8, 0x01#8, 0x05#8, 0x00#8, 0x01#8, 0xEB#8]) 0x02#8 0#32 0#64) =
    some (22#8, 0#32, 0#32, .scanning,
      [⟨.syncLoss, 0x05#8⟩, ⟨.discard, 0x00#8⟩, ⟨.discard, 0x01#8⟩, ⟨.discard, 0xEB#8⟩]) := by decide
/-- Vector T1. -/
theorem test_wait_issue : after (fun t => (t.opState, t.waitStartMs, t.waitTimeoutMs, t.result)) (accept (linkedAt 100 []) 0x03#8 5000#32 0#64) =
    some (.waitRx, 100#32, 5000#32, 1#32) := by decide
/-- Vector T10: the elapsed time wraps. -/
theorem test_wait_timeout_wraps :
    after (fun t => (t.opState, t.result, t.evLog))
      (step { t1 with waitStartMs := 0xFFFFFF00#32, waitTimeoutMs := 0x200#32, nowMs := 0x100#32 }) =
      some (.idle, 0#32, [⟨.timeout, 0x00#8⟩]) ∧
    after (fun t => t.opState)
      (step { t1 with waitStartMs := 0xFFFFFF00#32, waitTimeoutMs := 0x200#32, nowMs := 0xFF#32 }) = some .waitRx := by decide
/-- Vector X7: the wait is the remainder, over the wrap. -/
theorem test_send_issue :
    after (fun t => (t.opState, t.txWaitStartMs, t.txWaitLenMs, t.result, t.txLog))
      (accept { m1 with lastRxMs := 0xFFFFFFF0#32, nowMs := 0x10#32 } 0x04#8 0#32 0#64) =
    some (.waitTx, 0x10#32, 28#32, 1#32, []) := by decide
/-- Vector X4. -/
theorem test_send_transmits :
    after (fun t => (t.opState, t.pending, t.result, t.txLog)) (step { x2 with nowMs := 60#32 }) =
    some (.idle, false, 1#32,
      [.byte 0xFE#8, .byte 0x00#8, .byte 0x01#8, .byte 0x05#8, .byte 0x06#8, .byte 0x00#8, .byte 0x00#8, .byte 0x0A#8, .flush]) := by
  decide
/-- Vector K14: no marker check, the room temperature's raw 0 applied. -/
theorem test_decodeExt :
    after (fun t => (t.onOff, t.mode, t.fan, t.targetTemp, t.currentTemp, t.result)) (accept linked 0x05#8 8#32 0x0081CC094DBBAAFE#64) =
    some (1#1, 6#3, 4#3, 25#8, 0#8, 1#32) := by decide
/-- Vector K7. -/
theorem test_decodeExt_ranges :
    after (fun t => (t.onOff, t.targetTemp, t.currentTemp, t.evLog)) (accept linked 0x05#8 8#32 0xEB67008F800000FE#64) =
    some (0#1, 22#8, 0x63#8, [⟨.tgtRange, 0x0F#8⟩, ⟨.roomRange, 0x33#8⟩]) := by decide
/-- Vector M1. -/
theorem test_setPwr : after (fun t => (t.onOff, t.pending, t.txSlot, t.result)) (accept linked 0x10#8 1#32 0#64) =
    some (1#1, true, #v[0xFE#8, 0x00#8, 0x01#8, 0x05#8, 0x06#8, 0x00#8, 0x00#8, 0x0A#8], 0#32) := by decide
/-- Vector M2. -/
theorem test_setPwr_noop : after (fun t => (t.pending, t.result)) (accept linked 0x10#8 0#32 0#64) = some (false, 0#32) := by decide
/-- Vector M3. -/
theorem test_setMode : after (fun t => (t.mode, t.pending, t.txSlot)) (accept linked 0x11#8 3#32 0#64) =
    some (3#3, true, #v[0xFE#8, 0x00#8, 0x00#8, 0x03#8, 0x06#8, 0x00#8, 0x00#8, 0x07#8]) := by decide
/-- Vector M17: the operand check precedes the attachment check. -/
theorem test_setMode_illegal : after (fun t => (t.mode, t.result, t.evLog)) (accept boot 0x11#8 7#32 0#64) =
    some (5#3, 0#32, [⟨.badCmd, 0x11#8⟩]) := by decide
/-- Vector M6. -/
theorem test_setFan : after (fun t => (t.fan, t.pending, t.txSlot)) (accept linked 0x12#8 4#32 0#64) =
    some (4#3, true, #v[0xFE#8, 0x00#8, 0x00#8, 0x05#8, 0x06#8, 0x04#8, 0x00#8, 0x0D#8]) := by decide
/-- Vector M7. -/
theorem test_setFan_illegal : after (fun t => (t.fan, t.evLog)) (accept linked 0x12#8 5#32 0#64) =
    some (0#3, [⟨.badCmd, 0x12#8⟩]) := by decide
/-- Vector M11: stored as given, clamped only in the frame. -/
theorem test_setTemp_high : after (fun t => (t.targetTemp, t.txSlot)) (accept linked 0x13#8 35#32 0#64) =
    some (35#8, #v[0xFE#8, 0x00#8, 0x00#8, 0x05#8, 0x0E#8, 0x00#8, 0x00#8, 0x11#8]) := by decide
/-- Vector M13. -/
theorem test_setTemp_low : after (fun t => (t.targetTemp, t.txSlot)) (accept linked 0x13#8 10#32 0#64) =
    some (10#8, #v[0xFE#8, 0x00#8, 0x00#8, 0x05#8, 0x00#8, 0x00#8, 0x00#8, 0x03#8]) := by decide
theorem test_getPower : after (fun t => t.result) (accept m1 0x20#8 0#32 0#64) = some 1#32 := by decide
/-- Vector H6. -/
theorem test_getMode : after (fun t => t.result) (accept boot 0x21#8 0#32 0#64) = some 5#32 := by decide
theorem test_getFan : after (fun t => t.result) (accept { linked with fan := 7#3 } 0x22#8 0#32 0#64) = some 7#32 := by decide
/-- Vector H8. -/
theorem test_getTarget : after (fun t => t.result) (accept boot 0x23#8 0#32 0#64) = some 22#32 := by decide
/-- Vector H9. -/
theorem test_getCurrent : after (fun t => t.result) (accept boot 0x24#8 0#32 0#64) = some 0x63#32 := by decide
theorem test_getPending : after (fun t => t.result) (accept m1 0x25#8 0#32 0#64) = some 1#32 := by decide
/-- Vector H13: no EV_UNATTACHED. -/
theorem test_unassigned : after (fun t => (t.result, t.evLog)) (accept boot 0x14#8 0#32 0#64) = some (0#32, [⟨.badCmd, 0x14#8⟩]) := by
  decide
/-- A table word runs as the first command after reset (R196; the free values are not read). -/
theorem test_withFetchWord : after (fun t => t.result) (step (State.reset.withFetchWord 8 0x21)) = some 5#32 := by decide
/-- Vector Z1. -/
theorem test_reset : after (fun t => (t.opState, t.attached, t.result, t.rxq, t.mode))
    (step { t1 with agenda := [.resetAssert], rxq := [0x12#8, 0x34#8], mode := 2#3 }) =
    some (.idle, false, 0#32, [0x12#8, 0x34#8], 5#3) := by decide
/-- Vector E6, and the echo frame of 41_codec.md R149. -/
theorem test_encode : outboundFrame cfg .primary 1#1 2#3 3#3 15#8 =
      #v[0xFE#8, 0x00#8, 0x01#8, 0x02#8, 0x00#8, 0x03#8, 0x00#8, 0x04#8] ∧
    outboundFrame { cfg with roleCodePrimary := 0xD5#8 } .primary 1#1 5#3 4#3 30#8 =
      #v[0xFE#8, 0xD5#8, 0x01#8, 0x05#8, 0x0E#8, 0x04#8, 0x00#8, 0xEB#8] := by decide

/-! ### Witnesses: states and operands that meet the hypotheses of the statements, clause by clause -/

/-- `linked` with a command presented. -/
def presented (op : Byte) : State := { linked with port := [⟨op, 0#32, 0#64⟩], agenda := [.core] }

theorem witness_OpcodeMapIsExact : decode ⟨0x25#8, 0#32, 0#64⟩ = .ok .getPending ∧
    decode ⟨0x26#8, 0#32, 0#64⟩ = .error (.unassignedOpcode 0x26#8) := by decide
theorem witness_EncodeInvertsDecode : decode ⟨0x05#8, 0xFFFFFFF8#32, 0xEB010005010000FE#64⟩ = .ok (.decodeExt 8#4 k1) := by decide
theorem witness_StepRunsDecodedCommand : (presented 0x02#8).coreMoves ∧ (presented 0x02#8).opState = .idle ∧
    (presented 0x02#8).port = [⟨0x02#8, 0#32, 0#64⟩] ∧ decode ⟨0x02#8, 0#32, 0#64⟩ = .ok .poll :=
  ⟨.inr ⟨[], rfl⟩, rfl, rfl, rfl⟩
theorem witness_UnassignedOpcodeOnlyReports : (presented 0x26#8).coreMoves ∧ (presented 0x26#8).opState = .idle ∧
    (presented 0x26#8).port = [⟨0x26#8, 0#32, 0#64⟩] ∧
    (0x26#8 : Byte) ∉ [0x01#8, 0x02#8, 0x03#8, 0x04#8, 0x05#8, 0x10#8, 0x11#8, 0x12#8, 0x13#8,
      0x20#8, 0x21#8, 0x22#8, 0x23#8, 0x24#8, 0x25#8] :=
  ⟨.inr ⟨[], rfl⟩, rfl, rfl, by decide⟩
theorem witness_EveryTurnHasItsEffect :
    { linked with agenda := [.rxArrive s1] }.agenda = .rxArrive s1 :: [] ∧
    { linked with agenda := [.clockAdvance (2 ^ 32 - 1)] }.agenda = .clockAdvance (2 ^ 32 - 1) :: [] ∧
    { linked with agenda := [.hostPresent ⟨0x02#8, 0#32, 0#64⟩] }.agenda = .hostPresent ⟨0x02#8, 0#32, 0#64⟩ :: [] ∧
    (linked.coreMoves ∧ linked.opState = .idle ∧ linked.port = []) ∧
    { linked with agenda := [.resetAssert] }.agenda = .resetAssert :: [] ∧
    ({ linked with agenda := [.secondHost] }.agenda = .secondHost :: [] ∧
      step { linked with agenda := [.secondHost] } = .refused .secondHost) ∧
    ({ linked with opState := .unused }.coreMoves ∧ { linked with opState := .unused }.opState = .unused ∧
      step { linked with opState := .unused } = .fault .opStateUnused) :=
  ⟨rfl, rfl, rfl, ⟨.inl rfl, rfl, rfl⟩, rfl, ⟨rfl, rfl⟩, .inl rfl, rfl, rfl⟩
theorem witness_PortHoldsWhileBusy : t1.opState = .waitRx ∧ t1.agenda.head? ≠ some .resetAssert ∧
    step t1 = .next t1.waitBusy ∧ x2.opState = .waitTx ∧ x2.agenda.head? ≠ some .resetAssert ∧
    step x2 = .next x2.sendBusy ∧ linked.opState = .idle ∧ (∀ ms, Instr.poll ≠ .wait ms) ∧ Instr.poll ≠ .send :=
  ⟨rfl, by decide, rfl, rfl, by decide, rfl, rfl, fun _ h => (by cases h), by decide⟩
theorem witness_ScanningByteStep : linked.syncState = .scanning ∧ (0xFE#8 : Byte) = linked.cfg.syncMarker ∧
    (0xEB#8 : Byte) ≠ linked.cfg.syncMarker := by decide
theorem witness_CollectingByteStepAppends :
    (∀ n : Fin 8, { seven with rxCount := BitVec.ofNat 4 n.val }.rxCount.toNat = n.val) ∧ seven.syncState = .collecting ∧
    1 ≤ (1 : Fin 8).val ∧ (6 : Fin 8).val ≤ 6 := by decide
theorem witness_EndMarkerAcceptsFrame : seven.syncState = .collecting ∧ seven.rxCount = 7#4 ∧ (0xEB#8 : Byte) = seven.cfg.endMarker := by
  decide
theorem witness_EndMarkerMismatchLosesSync : seven.syncState = .collecting ∧ seven.rxCount = 7#4 ∧
    (0xFE#8 : Byte) ≠ seven.cfg.endMarker := by decide
theorem witness_CapacityGuardResets :
    ({ seven with rxCount := 0#4 }.syncState = .collecting ∧ { seven with rxCount := 0#4 }.rxCount = 0#4) ∧
    8 ≤ { seven with rxCount := 8#4 }.rxCount.toNat ∧ 8 ≤ { seven with rxCount := 15#4 }.rxCount.toNat := by decide
theorem witness_PollIsTheReceiveLoop :
    boot.attached = false ∧ (linked.attached = true ∧ linked.rxq = []) ∧
    ((linkedAt 0 [0x12#8]).attached = true ∧ (linkedAt 0 [0x12#8]).rxq = 0x12#8 :: [] ∧ ((linkedAt 0 [0x12#8]).syncByte 0x12#8).2 = false) ∧
    (seven.attached = true ∧ { seven with rxq := [0xEB#8] }.rxq = 0xEB#8 :: [] ∧
      (State.syncByte 0xEB#8 { seven with rxq := [0xEB#8] }).2 = true ∧ seven.cfg.pollDrain = false) ∧
    (State.syncByte 0xEB#8 { seven with rxq := [0xEB#8], cfg := { cfg with pollDrain := true } }).2 = true := by decide
theorem witness_WaitIssueLatches : linked.attached = true ∧ boot.attached = false := by decide
theorem witness_WaitBusyStepIsTheReceiveLoop :
    (t1.agenda = [] ∧ t1.opState = .waitRx ∧ t1.rxq = []) ∧
    ({ t1 with nowMs := 5100#32 }.waitTimeoutMs.toNat ≤ ({ t1 with nowMs := 5100#32 }.nowMs - t1.waitStartMs).toNat) ∧
    ((5099#32 - t1.waitStartMs).toNat < t1.waitTimeoutMs.toNat) ∧
    ({ t1 with rxq := s1 }.rxq = 0xFE#8 :: s1.tail ∧ ({ t1 with rxq := s1 }.syncByte 0xFE#8).2 = false) ∧
    (seven.agenda = [] ∧ { seven with opState := .waitRx, rxq := [0xEB#8] }.rxq = 0xEB#8 :: [] ∧
      (State.syncByte 0xEB#8 { seven with opState := .waitRx, rxq := [0xEB#8] }).2 = true) := by decide
theorem witness_PartialFramesPersist : Instr.send ≠ .poll ∧ exec .send boot = .next (boot.reject .unattached 0x04#8) := ⟨by decide, rfl⟩
theorem witness_ReceiveRefinesScan : linked.syncState = .scanning ∧ linked.rxCount = 0#4 ∧
    scan linked.cfg.syncMarker linked.cfg.endMarker (0x12#8 :: s1 ++ [0xFE#8]) = [.discarded 0x12#8, .accepted k1, .held [0xFE#8]] := by
  decide
theorem witness_CandidateIsTakenWhole : linked.syncState = .scanning ∧ linked.rxCount = 0#4 ∧ k1[0] = linked.cfg.syncMarker ∧
    k1[7] = linked.cfg.endMarker ∧ (k1.set 7 0xFE#8)[0] = linked.cfg.syncMarker ∧ (k1.set 7 0xFE#8)[7] ≠ linked.cfg.endMarker := by
  decide
theorem witness_OnlyPollAndWaitConsumeBytes : Instr.getMode ≠ .poll ∧ exec .getMode linked = .next (linked.setResult 5#32) ∧
    linked.coreMoves ∧ linked.opState = .idle ∧ linked.port = [] ∧ step linked = .next linked :=
  ⟨by decide, rfl, .inl rfl, rfl, rfl, rfl⟩
theorem witness_DecodeReadsAndWritesNothingElse :
    k1[3] &&& 0x7F#8 = (k1.set 3 0x81#8)[3] &&& 0x7F#8 ∧ k1[4] &&& 0x7F#8 = (k1.set 3 0x81#8)[4] &&& 0x7F#8 ∧
    k1[6] &&& 0x7F#8 = (k1.set 3 0x81#8)[6] &&& 0x7F#8 := by decide
theorem witness_EncodeWritesTheBytes :
    { linked with targetTemp := 16#8 }.targetTemp.toNat ≤ linked.cfg.tgtTempOffset.toNat ∧
    (linked.cfg.tgtTempOffset.toNat ≤ { linked with targetTemp := 30#8 }.targetTemp.toNat ∧
      30 - linked.cfg.tgtTempOffset.toNat ≤ linked.cfg.tgtRawMax.toNat) ∧
    linked.cfg.tgtRawMax.toNat ≤ { linked with targetTemp := 255#8 }.targetTemp.toNat - linked.cfg.tgtTempOffset.toNat := by decide
theorem witness_ChecksumIsTheWraparoundSum : (leadingBytes k1).length = 7 := by decide
theorem witness_DecodeExtRule : boot.attached = false ∧ linked.attached = true ∧ (7#4 : BitVec 4) ≠ 8#4 ∧ (9#4 : BitVec 4) ≠ 8#4 := by
  decide
theorem witness_EchoIsAcceptedIffChecksumIsEndMarker : linked.syncState = .scanning ∧ linked.rxCount = 0#4 ∧ linked.cfg = m1.cfg := by
  decide
/-- The sender of the echo vector: role code 0xD5, ON_OFF 1, MODE 5, FAN 4, TARGET_TEMP 30. -/
theorem witness_EndMarkerChecksumNeedsARoleCodeInRange :
    let s := { linked with cfg := { cfg with roleCodePrimary := 0xD5#8 }, onOff := 1#1, fan := 4#3, targetTemp := 30#8 }
    s.cfg.syncMarker = 0xFE#8 ∧ s.cfg.tgtTempOffset = 16#8 ∧ s.cfg.tgtRawMax = 14#8 ∧ modeCodeLegal s.mode = true ∧
      fanCodeLegal s.fan = true ∧ s.encodeFrame[7] = 0xEB#8 := by decide
theorem witness_SetPwrRule : boot.attached = false ∧ linked.attached = true ∧ 0#1 = linked.onOff ∧ 1#1 ≠ linked.onOff := by decide
theorem witness_SetModeRule : 5 < (6#3 : BitVec 3).toNat ∧ (5#3 : BitVec 3).toNat ≤ 5 ∧ boot.attached = false ∧ linked.attached = true ∧
    5#3 = linked.mode ∧ 0#3 ≠ linked.mode := by decide
theorem witness_SetFanRule : 4 < (5#3 : BitVec 3).toNat ∧ (4#3 : BitVec 3).toNat ≤ 4 ∧ boot.attached = false ∧ linked.attached = true ∧
    0#3 = linked.fan ∧ 4#3 ≠ linked.fan := by decide
theorem witness_SetTempRule : boot.attached = false ∧ linked.attached = true ∧ 22#8 = linked.targetTemp ∧ 255#8 ≠ linked.targetTemp := by
  decide
theorem witness_SendIssueRule : boot.attached = false ∧ (linked.attached = true ∧ linked.pending = false) ∧
    (m1.attached = true ∧ m1.pending = true ∧ m1.cfg.minTxDelayMs.toNat ≤ (60#32 - m1.lastRxMs).toNat ∧
      (59#32 - m1.lastRxMs).toNat < m1.cfg.minTxDelayMs.toNat) := by decide
theorem witness_SendBusyStepRule : x2.agenda = [] ∧ x2.opState = .waitTx ∧ x2.txWaitLenMs.toNat ≤ (60#32 - x2.txWaitStartMs).toNat ∧
    (59#32 - x2.txWaitStartMs).toNat < x2.txWaitLenMs.toNat := by decide
theorem witness_LastSetterWins : linked.attached = true ∧ (1#1 ≠ linked.onOff) ∧ (3#3 ≠ linked.mode ∧ (Instr.setMode 3#3).wellFormed = true) ∧
    (4#3 ≠ linked.fan ∧ (Instr.setFan 4#3).wellFormed = true) ∧ 35#8 ≠ linked.targetTemp ∧
    after (fun t => t.pending) (exec (.setMode 3#3) linked) = some true := by decide
theorem witness_ReceptionNeverTouchesTheSlot : exec .getPending m1 = .next (m1.setResult 1#32) := rfl
theorem witness_TransmissionOnlyAfterTheDelay :
    { x2 with nowMs := 60#32 }.OpInv ∧ step { x2 with nowMs := 60#32 } = .next (State.sendBusy { x2 with nowMs := 60#32 }) ∧
    (State.sendBusy { x2 with nowMs := 60#32 }).txLog ≠ x2.txLog :=
  ⟨⟨by decide, fun _ => rfl, fun _ => ⟨rfl, by decide, by decide⟩⟩, rfl, by decide⟩
theorem witness_WaitsEndByTheClock : t1.coreMoves ∧ t1.opState = .waitRx ∧ t1.waitTimeoutMs ≤ 5100#32 - t1.waitStartMs ∧
    x2.opState = .waitTx ∧ x2.txWaitLenMs ≤ 60#32 - x2.txWaitStartMs :=
  ⟨.inl rfl, rfl, by decide, rfl, by decide⟩
theorem witness_AttachRule : boot.attached = false ∧ linked.attached = true := by decide
theorem witness_UnattachedCommandsOnlyReport : boot.attached = false ∧ (Instr.setMode 5#3).wellFormed = true ∧
    (Instr.setFan 4#3).wellFormed = true ∧ Instr.poll.wellFormed = true := by decide
theorem witness_IllegalOperandsOnlyReport : (7#3 : BitVec 3) = 6#3 ∨ (7#3 : BitVec 3) = 7#3 := by decide
theorem witness_NoConditionIsFatal : t1.opState ≠ .unused ∧ t1.agenda.head? ≠ some .secondHost := by decide
theorem witness_AttachmentChangesOnce :
    let s := { boot with port := [⟨0x01#8, 1#32, 0#64⟩] }
    after (fun t => t.attached) (step s) = some true ∧ s.agenda.head? ≠ some .resetAssert ∧ s.attached = false ∧
      linked.attached = true ∧ step linked = .next linked := ⟨by decide, by decide, rfl, rfl, rfl⟩
theorem witness_PendingChangesOnlyByStageAndTransmit :
    after (fun t => t.pending) (step { x2 with nowMs := 60#32 }) = some false ∧ x2.pending = true ∧
    after (fun t => t.pending) (accept linked 0x10#8 1#32 0#64) = some true ∧ linked.pending = false ∧
    x2.agenda.head? ≠ some .resetAssert := by decide
theorem witness_CurrentTempComesFromDecodeOnly :
    after (fun t => t.currentTemp) (accept (linkedAt 0 s1) 0x02#8 0#32 0#64) = some 0x00#8 ∧ (linkedAt 0 s1).currentTemp = 0x63#8 ∧
    after (fun t => t.currentTemp) (accept linked 0x05#8 8#32 0xEB010005010000FE#64) = some 0x00#8 ∧
    after (fun t => t.currentTemp) (step { seven with opState := .waitRx, rxq := [0xEB#8] }) = some 0x00#8 ∧
    seven.currentTemp ≠ 0x00#8 ∧
    after (fun t => t.currentTemp) (step { linked with currentTemp := 7#8, agenda := [.resetAssert] }) = some 0x63#8 := by decide
theorem witness_LogsAreNeverRead : step t1 = .next t1.waitBusy := rfl
theorem witness_ClockAndConfigurationAreNotWritten : step x2 = .next x2.sendBusy := rfl
theorem witness_ResetPutsEveryRegister : { t1 with agenda := [.resetAssert] }.agenda = .resetAssert :: [] := rfl
theorem witness_StepKeepsSyncInvariant : seven.SyncInv ∧ step seven = .next seven :=
  ⟨⟨fun h => by simp [seven] at h, fun _ => ⟨by decide, by decide, rfl⟩⟩, rfl⟩
theorem witness_StepKeepsWaitInvariant : x2.OpInv ∧ step x2 = .next x2.sendBusy :=
  ⟨⟨by decide, fun _ => rfl, fun _ => ⟨rfl, by decide, by decide⟩⟩, rfl⟩
theorem m1_staged : m1.StagedInv := fun _ => ⟨rfl, 1#1, 5#3, 0#3, 22#8, by decide⟩
theorem witness_StepKeepsStagedFrame : x2.StagedInv ∧ step x2 = .next x2.sendBusy ∧ x2.sendBusy.pending = true :=
  ⟨m1_staged, rfl, by decide⟩
theorem witness_StepKeepsUnattachedDefaults : boot.UnattachedInv ∧ boot.attached = false ∧ step boot = .next boot :=
  ⟨fun _ => rfl, rfl, rfl⟩
theorem witness_StepKeepsWireFraming :
    let s := { x2 with nowMs := 60#32 }
    s.OpInv ∧ s.StagedInv ∧ s.WireInv ∧ step s = .next s.sendBusy :=
  ⟨⟨by decide, fun _ => rfl, fun _ => ⟨rfl, by decide, by decide⟩⟩, m1_staged, ⟨[], rfl, fun _ h => by cases h⟩, rfl⟩
theorem witness_EveryRunIsSafe :
    (State.launch cfg s1 0#32 [] [.hostPresent ⟨0x01#8, 0#32, 0#64⟩, .core, .clockAdvance 10, .resetAssert]).OneHost := by
  unfold State.OneHost; decide

end Sys2Proof.Tests
end

/-! PROOFS of the encoding family (30_encoding.md): the opcode map, the reserved operand bits, the pseudo-instructions. -/

section
/-!
SUPPORT. The decoder, one equation an opcode (R82, R83), and the operand fields that clearing the reserved bits keeps (R84).
-/
namespace Sys2Proof

/-- The opcode column of R82. -/
def assignedOpcodes : List Byte :=
  [0x01#8, 0x02#8, 0x03#8, 0x04#8, 0x05#8, 0x10#8, 0x11#8, 0x12#8, 0x13#8,
    0x20#8, 0x21#8, 0x22#8, 0x23#8, 0x24#8, 0x25#8]

section
variable {c : Command}

theorem decode_attach (h : c.op = 0x01#8) : decode c = .ok (.attach (roleOfArg c.arg)) := by simp [decode, h]
theorem decode_poll (h : c.op = 0x02#8) : decode c = .ok .poll := by simp [decode, h]
theorem decode_wait (h : c.op = 0x03#8) : decode c = .ok (.wait c.arg) := by simp [decode, h]
theorem decode_send (h : c.op = 0x04#8) : decode c = .ok .send := by simp [decode, h]
theorem decode_decodeExt (h : c.op = 0x05#8) :
    decode c = .ok (.decodeExt (c.arg.extractLsb' 0 4) (frameOfData c.data)) := by simp [decode, h]
theorem decode_setPwr (h : c.op = 0x10#8) : decode c = .ok (.setPwr (c.arg.extractLsb' 0 1)) := by simp [decode, h]
theorem decode_setMode (h : c.op = 0x11#8) : decode c = .ok (.setMode (c.arg.extractLsb' 0 3)) := by simp [decode, h]
theorem decode_setFan (h : c.op = 0x12#8) : decode c = .ok (.setFan (c.arg.extractLsb' 0 3)) := by simp [decode, h]
theorem decode_setTemp (h : c.op = 0x13#8) : decode c = .ok (.setTemp (c.arg.extractLsb' 0 8)) := by simp [decode, h]
theorem decode_getPower (h : c.op = 0x20#8) : decode c = .ok .getPower := by simp [decode, h]
theorem decode_getMode (h : c.op = 0x21#8) : decode c = .ok .getMode := by simp [decode, h]
theorem decode_getFan (h : c.op = 0x22#8) : decode c = .ok .getFan := by simp [decode, h]
theorem decode_getTarget (h : c.op = 0x23#8) : decode c = .ok .getTarget := by simp [decode, h]
theorem decode_getCurrent (h : c.op = 0x24#8) : decode c = .ok .getCurrent := by simp [decode, h]
theorem decode_getPending (h : c.op = 0x25#8) : decode c = .ok .getPending := by simp [decode, h]

/-- The equations above are all there is: a command that decodes carries its instruction's opcode. -/
theorem opcode_eq_of_decode_ok {i : Instr} (h : decode c = .ok i) : c.op = i.opcode := by
  unfold decode at h
  split at h <;> cases h <;> assumption

/-- R85: exactly the opcodes outside the map are rejected. -/
theorem notMem_assignedOpcodes_iff : c.op ∉ assignedOpcodes ↔ decode c = .error (.unassignedOpcode c.op) := by
  unfold decode
  split <;> simp_all [assignedOpcodes]

@[simp] theorem Command.clearReserved_op : c.clearReserved.op = c.op := rfl

theorem Command.clearReserved_arg_of_mask (h : argMask c.op = BitVec.allOnes 32) : c.clearReserved.arg = c.arg := by
  rw [Command.clearReserved, h, BitVec.and_allOnes]

/-- An operand field that the mask of R83 covers survives the clearing. -/
theorem Command.clearReserved_field {n : Nat} (h : (argMask c.op).extractLsb' 0 n = BitVec.allOnes n) :
    c.clearReserved.arg.extractLsb' 0 n = c.arg.extractLsb' 0 n := by
  rw [Command.clearReserved, BitVec.extractLsb'_and, h, BitVec.and_allOnes]

theorem Command.roleOfArg_clearReserved (h : (argMask c.op).extractLsb' 0 1 = 1#1) :
    roleOfArg c.clearReserved.arg = roleOfArg c.arg := by
  rw [roleOfArg, Command.clearReserved_field h, roleOfArg]

theorem Command.clearReserved_data (h : c.op = 0x05#8) : c.clearReserved.data = c.data := if_pos h

end

/-- Whatever the decoder reads for an opcode lies under the opcode's mask. -/
theorem decode_clearReserved (c : Command) : decode c.clearReserved = decode c := by
  unfold decode
  rw [Command.clearReserved_op]
  split
  case h_1 h => -- ATTACH
    rw [Command.roleOfArg_clearReserved (by rw [h]; rfl)]
  case h_3 h => -- WAIT
    rw [Command.clearReserved_arg_of_mask (by rw [h]; rfl)]
  case h_5 h => -- DECODE_EXT
    rw [Command.clearReserved_field (by rw [h]; rfl), Command.clearReserved_data h]
  case h_6 h => -- SETPWR
    rw [Command.clearReserved_field (by rw [h]; rfl)]
  case h_7 h => -- SETMODE
    rw [Command.clearReserved_field (by rw [h]; rfl)]
  case h_8 h => -- SETFAN
    rw [Command.clearReserved_field (by rw [h]; rfl)]
  case h_9 h => -- SETTEMP
    rw [Command.clearReserved_field (by rw [h]; rfl)]
  -- the commands without operands, and the unassigned opcodes
  all_goals rfl

namespace Machine

/-- Acceptance sees a command only through the decoder (R191). -/
theorem State.acceptCommand_congr {c d : Command} (h : decode c = decode d) (s : State) :
    s.acceptCommand c = s.acceptCommand d := by
  unfold State.acceptCommand
  rw [h]

/-- Settles O5: the decoder reads no reserved bit, and acceptance depends on the decoded command alone. -/
theorem reservedOperandBitsAreIgnored : Obligations.ReservedOperandBitsAreIgnored := fun c s =>
  have h := (decode_clearReserved c).symm
  ⟨h, State.acceptCommand_congr h s⟩

/-- Settles O1: each row by the opcode's equation and the opcode of what decodes; the last by the rejected opcodes. -/
theorem opcodeMapIsExact : Obligations.OpcodeMapIsExact := fun _ =>
  ⟨⟨fun h => ⟨_, decode_attach h⟩, fun ⟨_, h⟩ => opcode_eq_of_decode_ok h⟩,
    ⟨decode_poll, opcode_eq_of_decode_ok⟩,
    ⟨fun h => ⟨_, decode_wait h⟩, fun ⟨_, h⟩ => opcode_eq_of_decode_ok h⟩,
    ⟨decode_send, opcode_eq_of_decode_ok⟩,
    ⟨fun h => ⟨_, _, decode_decodeExt h⟩, fun ⟨_, _, h⟩ => opcode_eq_of_decode_ok h⟩,
    ⟨fun h => ⟨_, decode_setPwr h⟩, fun ⟨_, h⟩ => opcode_eq_of_decode_ok h⟩,
    ⟨fun h => ⟨_, decode_setMode h⟩, fun ⟨_, h⟩ => opcode_eq_of_decode_ok h⟩,
    ⟨fun h => ⟨_, decode_setFan h⟩, fun ⟨_, h⟩ => opcode_eq_of_decode_ok h⟩,
    ⟨fun h => ⟨_, decode_setTemp h⟩, fun ⟨_, h⟩ => opcode_eq_of_decode_ok h⟩,
    ⟨decode_getPower, opcode_eq_of_decode_ok⟩,
    ⟨decode_getMode, opcode_eq_of_decode_ok⟩,
    ⟨decode_getFan, opcode_eq_of_decode_ok⟩,
    ⟨decode_getTarget, opcode_eq_of_decode_ok⟩,
    ⟨decode_getCurrent, opcode_eq_of_decode_ok⟩,
    ⟨decode_getPending, opcode_eq_of_decode_ok⟩,
    notMem_assignedOpcodes_iff⟩

end Machine
end Sys2Proof
end

section
/-!
SUPPORT. The assembler's lines as their words, and its mnemonics with an operand that has a name (30_encoding.md R87, R88).
-/
namespace Sys2Proof.Machine

/-- The characters of one word of a line: some, none a space, none a comment's start (R87). -/
abbrev IsWord (w : List Char) : Prop := w ≠ [] ∧ ' ' ∉ w ∧ ';' ∉ w

theorem stripComment_eq_self {line : List Char} (h : ';' ∉ line) : stripComment line = line := by
  rw [stripComment, List.takeWhile_eq_self_iff]
  exact fun c hc => decide_eq_true fun (heq : c = ';') => h (heq ▸ hc)

/-- The word begun takes every character of a word that ends the line. -/
theorem splitWords_word {w cur : List Char} (hw : ' ' ∉ w) (hne : cur ≠ [] ∨ w ≠ []) :
    splitWords cur w = [cur.reverse ++ w] := by
  induction w generalizing cur with
  | nil => simp_all [splitWords]
  | cons a w ih =>
    obtain ⟨ha, hw⟩ : ' ' ≠ a ∧ ' ' ∉ w := by simpa using hw
    rw [splitWords, if_neg ha.symm, ih hw (.inl (List.cons_ne_nil a cur))]
    simp

/-- A space ends the word begun. -/
theorem splitWords_word_space {w cur : List Char} (rest : List Char) (hw : ' ' ∉ w) (hne : cur ≠ [] ∨ w ≠ []) :
    splitWords cur (w ++ ' ' :: rest) = (cur.reverse ++ w) :: splitWords [] rest := by
  induction w generalizing cur with
  | nil => simp_all [splitWords]
  | cons a w ih =>
    obtain ⟨ha, hw⟩ : ' ' ≠ a ∧ ' ' ∉ w := by simpa using hw
    rw [List.cons_append, splitWords, if_neg ha.symm, ih hw (.inl (List.cons_ne_nil a cur))]
    simp

theorem wordsOfLine_one {m : List Char} (hm : IsWord m) : splitWords [] (stripComment m) = [m] := by
  obtain ⟨hne, hspace, hcomment⟩ := hm
  rw [stripComment_eq_self hcomment, splitWords_word hspace (.inr hne), List.reverse_nil, List.nil_append]

theorem wordsOfLine_two {m w : List Char} (hm : IsWord m) (hw : IsWord w) :
    splitWords [] (stripComment (m ++ ' ' :: w)) = [m, w] := by
  obtain ⟨hmne, hmspace, hmcomment⟩ := hm
  obtain ⟨hwne, hwspace, hwcomment⟩ := hw
  have hcomment : ';' ∉ m ++ ' ' :: w := by simp [hmcomment, hwcomment]
  rw [stripComment_eq_self hcomment, splitWords_word_space w hmspace (.inr hmne), splitWords_word hwspace (.inr hwne)]
  rfl

/-- Lines whose words assemble alike assemble alike. -/
theorem assembleLine_congr {line line' m m' : List Char} {ops ops' : List (List Char)}
    (hl : splitWords [] (stripComment line) = m :: ops) (hl' : splitWords [] (stripComment line') = m' :: ops')
    (h : assembleWords m ops = assembleWords m' ops') : assembleLine line = assembleLine line' := by
  simp only [assembleLine, hl, hl', h]

/-- A mnemonic alone, and what it stands for: a mnemonic and its operand. -/
theorem assembleLine_expand_mnemonic {m m' w : List Char} (hm : IsWord m) (hm' : IsWord m') (hw : IsWord w)
    (h : assembleWords m [] = assembleWords m' [w]) : assembleLine m = assembleLine (m' ++ ' ' :: w) :=
  assembleLine_congr (wordsOfLine_one hm) (wordsOfLine_two hm' hw) h

theorem assembleWords_attach (ops : List (List Char)) :
    assembleWords "ATTACH".toList ops = oneOperand roleOperand .attach ops := rfl

theorem assembleWords_setMode (ops : List (List Char)) :
    assembleWords "SETMODE".toList ops = oneOperand modeOperand .setMode ops := rfl

theorem assembleWords_setFan (ops : List (List Char)) :
    assembleWords "SETFAN".toList ops = oneOperand fanOperand .setFan ops := rfl

theorem assembleWords_decodeExt (ops : List (List Char)) :
    assembleWords "DECODE_EXT".toList ops = decodeExtOperands ops := rfl

/-- Operands that a mnemonic's only operand reads alike may stand for each other in its line. -/
theorem assembleLine_operand_congr {α : Type} {read : List Char → Option α} {build : α → Instr} {m w w' : List Char}
    (hasm : ∀ ops, assembleWords m ops = oneOperand read build ops) (hm : IsWord m) (hw : IsWord w) (hw' : IsWord w')
    (h : read w = read w') : assembleLine (m ++ ' ' :: w) = assembleLine (m ++ ' ' :: w') :=
  assembleLine_congr (wordsOfLine_two hm hw) (wordsOfLine_two hm hw') (by simp only [hasm, oneOperand, h])

/-- The names of R79 are words and read as their codes. -/
theorem modeOperand_name : ∀ n ∈ [("UNKNOWN", "0"), ("FAN", "1"), ("DRY", "2"), ("COOL", "3"), ("HEAT", "4"), ("AUTO", "5")],
    IsWord n.1.toList ∧ IsWord n.2.toList ∧ modeOperand n.1.toList = modeOperand n.2.toList := by decide

/-- The names of R80 are words and read as their codes. -/
theorem fanOperand_name : ∀ n ∈ [("AUTO", "0"), ("QUIET", "1"), ("LOW", "2"), ("MEDIUM", "3"), ("HIGH", "4")],
    IsWord n.1.toList ∧ IsWord n.2.toList ∧ fanOperand n.1.toList = fanOperand n.2.toList := by decide

/-- Eight byte operands alone mean length 8; the nine operands with that length written read the same bytes. -/
theorem decodeExtOperands_eight {ws : List (List Char)} (h : ws.length = 8) :
    decodeExtOperands ws = decodeExtOperands (['8'] :: ws) := by
  have hlen : fieldOperand 4 ['8'] = some 8#4 := by decide
  have hnine : (['8'] :: ws).length ≠ 8 := by simp [h]
  simp only [decodeExtOperands, if_pos h, if_neg hnine, hlen]
  cases frameOperand ws <;> rfl

/-- Settles O6: each expansion's words assemble alike, and the line's words are all that its result depends on. -/
theorem pseudoInstructionsExpand : Obligations.PseudoInstructionsExpand := by
  refine ⟨?on, ?off, ?primary, ?secondary, fun n hn => ?mode, fun n hn => ?fan, fun ws h => ?decodeExt⟩
  case on =>
    exact assembleLine_expand_mnemonic (m' := "SETPWR".toList) (w := ['1'])
      (by decide) (by decide) (by decide) rfl
  case off =>
    exact assembleLine_expand_mnemonic (m' := "SETPWR".toList) (w := ['0'])
      (by decide) (by decide) (by decide) rfl
  case primary =>
    exact assembleLine_operand_congr (w := "PRIMARY".toList) (w' := ['0'])
      assembleWords_attach (by decide) (by decide) (by decide) (by decide)
  case secondary =>
    exact assembleLine_operand_congr (w := "SECONDARY".toList) (w' := ['1'])
      assembleWords_attach (by decide) (by decide) (by decide) (by decide)
  case mode =>
    obtain ⟨hname, hcode, hread⟩ := modeOperand_name n hn
    exact assembleLine_operand_congr assembleWords_setMode (by decide) hname hcode hread
  case fan =>
    obtain ⟨hname, hcode, hread⟩ := fanOperand_name n hn
    exact assembleLine_operand_congr assembleWords_setFan (by decide) hname hcode hread
  case decodeExt =>
    rw [assembleWords_decodeExt, assembleWords_decodeExt]
    exact decodeExtOperands_eight h

end Sys2Proof.Machine
end

/-! PROOFS of the synchronizer family (40_synchronizer.md): the byte step, POLL, WAIT, and what survives between commands. -/

section
/-!
SUPPORT. The byte step by its state (R101 to R105), with what it leaves alone, and the receive loop by the head of RXQ
(R107, R109).
-/
namespace Sys2Proof.Machine

/-- SCANNING, a byte other than the marker (R101). -/
theorem State.syncByte_discard {s : State} {b : Byte} (h : s.syncState = .scanning) (hb : b ≠ s.cfg.syncMarker) :
    s.syncByte b = ({ s with evLog := s.evLog ++ [⟨.discard, b⟩] }, false) := by
  simp only [State.syncByte, h, State.scanByte, if_neg hb, State.emit_eq]

/-- COLLECTING with a count no candidate has (R105). -/
theorem State.syncByte_overflow {s : State} (b : Byte) (h : s.syncState = .collecting)
    (hc : s.rxCount.toNat = 0 ∨ 8 ≤ s.rxCount.toNat) :
    s.syncByte b =
      ({ s with
          syncState := .scanning, rxCount := 0#4,
          evLog := s.evLog ++ [⟨.overflow, s.rxCount.setWidth 8⟩] }, false) := by
  simp only [State.syncByte, h, if_pos hc, State.guardOverflow, State.rescan, State.emit_eq]

/-- COLLECTING, the byte is stored whether or not it ends the candidate (R102). -/
theorem State.syncByte_rxBuf {s : State} {n : Nat} (b : Byte) (h : s.syncState = .collecting)
    (hn : s.rxCount = BitVec.ofNat 4 n) (h1 : 1 ≤ n) (h8 : n < 8) : (s.syncByte b).1.rxBuf = s.rxBuf.set n b := by
  by_cases h6 : n ≤ 6
  · rw [State.syncByte_append b h hn h1 h6]
  · obtain rfl : n = 7 := by omega
    rw [State.syncByte_last b h hn]
    split <;> rfl

section
variable (b : Byte) (s : State)

@[simp] theorem State.syncByte_cfg : (s.syncByte b).1.cfg = s.cfg := (congrArg State.cfg (s.syncByte_frame b) :)

@[simp] theorem State.syncByte_attached : (s.syncByte b).1.attached = s.attached :=
  (congrArg State.attached (s.syncByte_frame b) :)

@[simp] theorem State.syncByte_opState : (s.syncByte b).1.opState = s.opState :=
  (congrArg State.opState (s.syncByte_frame b) :)

@[simp] theorem State.syncByte_nowMs : (s.syncByte b).1.nowMs = s.nowMs := (congrArg State.nowMs (s.syncByte_frame b) :)

@[simp] theorem State.syncByte_waitStartMs : (s.syncByte b).1.waitStartMs = s.waitStartMs :=
  (congrArg State.waitStartMs (s.syncByte_frame b) :)

@[simp] theorem State.syncByte_waitTimeoutMs : (s.syncByte b).1.waitTimeoutMs = s.waitTimeoutMs :=
  (congrArg State.waitTimeoutMs (s.syncByte_frame b) :)

end

/-- A frame accepted before changes what the draining loop answers, not what it does. -/
theorem State.consume_drain_got (got : Bool) (q : List Byte) (s : State) :
    s.consume true got q = ((s.consume true false q).1, got || (s.consume true false q).2) := by
  induction q generalizing s got with
  | nil => simp [State.consume]
  | cons b rest ih =>
    simp only [State.consume_cons, Bool.not_true, Bool.and_false, Bool.false_or, if_neg Bool.false_ne_true]
    rw [ih (got || (s.syncByte b).2), ih (s.syncByte b).2, Bool.or_assoc]

/-- The loop over bytes put in RXQ. -/
theorem State.receive_rxq (drain : Bool) (q : List Byte) (s : State) :
    State.receive drain { s with rxq := q } = s.consume drain false q := State.consume_rxq drain false q q s

section
variable {s : State} {drain : Bool} {b : Byte} {rest : List Byte}

theorem State.receive_nil (hq : s.rxq = []) : s.receive drain = (s, false) := by
  rw [State.receive, hq, State.consume, ← hq]

/-- No frame accepted: the loop goes on with the bytes left. -/
theorem State.receive_of_notAccepted (hq : s.rxq = b :: rest) (ha : (s.syncByte b).2 = false) :
    s.receive drain = State.receive drain { (s.syncByte b).1 with rxq := rest } := by
  rw [State.receive, hq, State.consume_cons, ha]
  exact (State.receive_rxq drain rest _).symm

/-- A frame accepted stops the loop that does not drain. -/
theorem State.receive_of_accepted (hq : s.rxq = b :: rest) (ha : (s.syncByte b).2 = true) :
    s.receive false = ({ (s.syncByte b).1 with rxq := rest }, true) := by
  rw [State.receive, hq, State.consume_cons, ha]
  rfl

/-- After an accepted frame the draining loop goes on, its answer settled. -/
theorem State.receive_drain_of_accepted (hq : s.rxq = b :: rest) (ha : (s.syncByte b).2 = true) :
    s.receive true = ((State.receive true { (s.syncByte b).1 with rxq := rest }).1, true) := by
  rw [State.receive, hq, State.consume_cons, ha, State.receive_rxq true rest]
  exact State.consume_drain_got true rest _

end

/-- The whole effect of POLL on an attached link (R107). -/
theorem State.poll_eq (s : State) :
    s.poll = { (s.receive s.cfg.pollDrain).1 with result := boolResult (s.receive s.cfg.pollDrain).2 } := rfl

theorem exec_poll_of_attached {s : State} (ha : s.attached = true) : exec .poll s = .next s.poll :=
  congrArg Host.Outcome.next (State.whenAttached_of_attached _ _ ha)

theorem exec_poll_of_unattached {s : State} (ha : s.attached = false) :
    exec .poll s = .next { s with result := 0#32, evLog := s.evLog ++ [⟨.unattached, 0x02#8⟩] } :=
  congrArg Host.Outcome.next (State.whenAttached_of_unattached _ _ ha)

theorem State.poll_nil {s : State} (hq : s.rxq = []) : s.poll = { s with result := 0#32 } := by
  rw [State.poll_eq, State.receive_nil hq]
  rfl

/-- WAIT's busy step with no byte available is the timeout test alone (R109). -/
theorem State.waitBusy_nil {s : State} (hq : s.rxq = []) :
    s.waitBusy =
      if s.waitTimeoutMs ≤ s.nowMs - s.waitStartMs then
        { s with result := 0#32, opState := .idle, evLog := s.evLog ++ [⟨.timeout, 0x00#8⟩] }
      else s := by
  rcases s.waitBusy_cases with ⟨hr, _⟩ | ⟨_, ht, e⟩ | ⟨_, ht, e⟩
  · simp [State.receive_nil hq] at hr
  · rw [e, State.receive_nil hq, if_pos ht]
  · rw [e, State.receive_nil hq, if_neg (BitVec.not_le.mpr ht)]

theorem State.waitBusy_of_accepted {s : State} {b : Byte} {rest : List Byte} (hq : s.rxq = b :: rest)
    (ha : (s.syncByte b).2 = true) :
    s.waitBusy = { (s.syncByte b).1 with rxq := rest, result := 1#32, opState := .idle } := by
  simp [State.waitBusy, State.receive_of_accepted hq ha, State.setResult_eq]

theorem State.waitBusy_of_notAccepted {s : State} {b : Byte} {rest : List Byte} (hq : s.rxq = b :: rest)
    (ha : (s.syncByte b).2 = false) : s.waitBusy = State.waitBusy { (s.syncByte b).1 with rxq := rest } := by
  simp only [State.waitBusy, State.receive_of_notAccepted hq ha, State.syncByte_nowMs, State.syncByte_waitStartMs,
    State.syncByte_waitTimeoutMs]

end Sys2Proof.Machine
end

section
/-!
SUPPORT. The synchronizer's registers and RXQ under everything that is not the receive loop (R110, R113).
-/
namespace Sys2Proof.Machine

/-- The synchronizer's registers: SYNC_STATE, RX_COUNT, RX_BUF and LAST_RX_MS (R30 to R32, R36). -/
def State.receiver (s : State) : SyncState × BitVec 4 × Frame × Ms := (s.syncState, s.rxCount, s.rxBuf, s.lastRxMs)

/-- The registers that hold a candidate are among them. -/
theorem State.candidate_of_receiver_eq {s t : State} (h : t.receiver = s.receiver) :
    t.syncState = s.syncState ∧ t.rxCount = s.rxCount ∧ t.rxBuf = s.rxBuf :=
  ⟨congrArg (fun r => r.1) h, congrArg (fun r => r.2.1) h, congrArg (fun r => r.2.2.1) h⟩

theorem State.lastRxMs_of_receiver_eq {s t : State} (h : t.receiver = s.receiver) : t.lastRxMs = s.lastRxMs :=
  congrArg (fun r => r.2.2.2) h

/-- Only POLL receives. -/
theorem exec_keeps_receiver {i : Instr} {s t : State} (hi : i ≠ .poll) (h : exec i s = .next t) :
    t.receiver = s.receiver ∧ t.rxq = s.rxq := by
  rcases exec_cases h with ⟨_, _, rfl⟩ | ⟨_, rfl⟩ | ⟨_, _, _, rfl⟩ | ⟨hpoll, _, _⟩ | ⟨_, _, _, rfl⟩ | ⟨_, _, rfl⟩ |
    ⟨f, _, _, rfl⟩ | ⟨_, _, _, _, _, _, rfl⟩
  · exact ⟨rfl, rfl⟩
  · exact ⟨rfl, rfl⟩
  · exact ⟨rfl, rfl⟩
  · exact absurd hpoll hi
  · exact ⟨rfl, rfl⟩
  · rcases s.sendIssue_cases with ⟨_, e⟩ | ⟨_, _, e⟩ | ⟨_, _, e⟩ <;> rw [e] <;> exact ⟨rfl, rfl⟩
  · rw [s.decodeFrame_eq f]; exact ⟨rfl, rfl⟩
  · exact ⟨rfl, rfl⟩

theorem State.sendBusy_keeps_receiver (s : State) : s.sendBusy.receiver = s.receiver ∧ s.sendBusy.rxq = s.rxq := by
  rcases s.sendBusy_cases with ⟨_, e⟩ | ⟨_, e⟩ <;> rw [e] <;> exact ⟨rfl, rfl⟩

/-- With no byte available a POLL keeps the candidate. -/
theorem exec_poll_nil_keeps_receiver {s t : State} (hq : s.rxq = []) (h : exec .poll s = .next t) :
    t.receiver = s.receiver := by
  cases ha : s.attached with
  | true => rw [exec_poll_of_attached ha, State.poll_nil hq] at h; cases h; rfl
  | false => rw [exec_poll_of_unattached ha] at h; cases h; rfl

/-- With no byte available a busy step of WAIT keeps the candidate, the timeout included. -/
theorem State.waitBusy_nil_keeps_receiver {s : State} (hq : s.rxq = []) : s.waitBusy.receiver = s.receiver := by
  rw [State.waitBusy_nil hq]
  split <;> rfl

/-- A step other than a reset keeps the synchronizer's registers and takes no byte from RXQ, or it is a POLL or a busy step of
WAIT. -/
theorem step_receiver_cases {s t : State} (h : step s = .next t) (hr : s.agenda.head? ≠ some .resetAssert) :
    (t.receiver = s.receiver ∧ s.rxq <+: t.rxq) ∨
    (s.coreMoves ∧ s.opState = .waitRx ∧ t = s.afterTurn.waitBusy) ∨
    (s.coreMoves ∧ s.opState = .idle ∧ ∃ c rest, s.port = c :: rest ∧ decode c = .ok .poll ∧
      exec .poll { s.afterTurn with port := rest } = .next t) := by
  rcases step_cases h with ⟨hm, h⟩ | ⟨bytes, _, rfl⟩ | ⟨_, _, rfl⟩ | ⟨_, _, rfl⟩ | ⟨hreset, _⟩
  · rcases State.coreTurn_cases h with ⟨_, _, rfl⟩ | ⟨c, rest, i, ho, hp, hd, he⟩ | ⟨_, _, _, _, _, _, rfl⟩ | ⟨ho, rfl⟩ |
      ⟨_, rfl⟩
    · exact .inl ⟨rfl, List.prefix_rfl⟩
    · by_cases hi : i = .poll
      · subst hi
        exact .inr (.inr ⟨hm, ho, c, rest, hp, hd, he⟩)
      · obtain ⟨hs, hq⟩ := exec_keeps_receiver hi he
        exact .inl ⟨hs, hq ▸ List.prefix_rfl⟩
    · exact .inl ⟨rfl, List.prefix_rfl⟩
    · exact .inr (.inl ⟨hm, ho, rfl⟩)
    · obtain ⟨hs, hq⟩ := s.afterTurn.sendBusy_keeps_receiver
      exact .inl ⟨hs, hq ▸ List.prefix_rfl⟩
  · exact .inl ⟨rfl, List.prefix_append s.rxq bytes⟩
  · exact .inl ⟨rfl, List.prefix_rfl⟩
  · exact .inl ⟨rfl, List.prefix_rfl⟩
  · exact absurd hreset hr

end Sys2Proof.Machine
end

section
/-!
PROOFS. The statements of the synchronizer family.
-/
namespace Sys2Proof.Machine

/-- Settles O16: each clause is the receive loop's equation for the head of RXQ, and the byte step keeps what POLL reads. -/
theorem pollIsTheReceiveLoop : Obligations.PollIsTheReceiveLoop := by
  refine ⟨fun _ => decode_poll, fun s => ⟨exec_poll_of_unattached, fun ha hq => ?empty, fun b rest ha hq => ?byte⟩⟩
  case empty => rw [exec_poll_of_attached ha, State.poll_nil hq]
  case byte =>
    have hnext : exec .poll { (s.syncByte b).1 with rxq := rest } = .next (State.poll { (s.syncByte b).1 with rxq := rest }) :=
      exec_poll_of_attached ((s.syncByte_attached b).trans ha)
    rw [exec_poll_of_attached ha, hnext]
    refine ⟨fun hb => ?goesOn, fun hb hd => ?stops, fun hb hd => ⟨_, rfl, ?drains⟩⟩
    case goesOn => simp only [State.poll_eq, State.syncByte_cfg, State.receive_of_notAccepted hq hb]
    case stops =>
      rw [State.poll_eq, hd, State.receive_of_accepted hq hb]
      rfl
    case drains =>
      simp only [State.poll_eq, State.syncByte_cfg, hd, State.receive_drain_of_accepted hq hb]
      rfl

/-- Settles O19: a busy step is the receive loop's equation for the head of RXQ, or the timeout test where RXQ is empty. -/
theorem waitBusyStepIsTheReceiveLoop : Obligations.WaitBusyStepIsTheReceiveLoop := by
  intro s ho
  rw [State.coreTurn_of_waitRx ho]
  refine ⟨fun b rest hq => ⟨fun hb => ?accepted, fun hb => ?goesOn⟩, fun hq => ⟨fun ht => ?timeout, fun ht => ?waits⟩⟩
  case accepted => rw [State.waitBusy_of_accepted hq hb]
  case goesOn =>
    have ho' : State.opState { (s.syncByte b).1 with rxq := rest } = .waitRx := (s.syncByte_opState b).trans ho
    rw [State.coreTurn_of_waitRx ho', State.waitBusy_of_notAccepted hq hb]
  case timeout => rw [State.waitBusy_nil hq, if_pos (BitVec.le_def.mpr ht)]
  case waits => rw [State.waitBusy_nil hq, if_neg (BitVec.not_le.mpr (BitVec.lt_def.mpr ht))]

/-- Settles O20: the draining loop splits, only the receive loop writes the candidate, and with no byte it does not. -/
theorem partialFramesPersist : Obligations.PartialFramesPersist := by
  refine ⟨fun s got a b => s.consume_append got a b,
    fun i s t hi h => State.candidate_of_receiver_eq (exec_keeps_receiver hi h).1,
    fun s => State.candidate_of_receiver_eq s.sendBusy_keeps_receiver.1,
    fun s t h hq hr => State.candidate_of_receiver_eq ?step⟩
  case step =>
    rcases step_receiver_cases h hr with ⟨hs, _⟩ | ⟨_, _, rfl⟩ | ⟨_, _, _, rest, _, _, he⟩
    · exact hs
    · exact State.waitBusy_nil_keeps_receiver (s := s.afterTurn) hq
    · exact exec_poll_nil_keeps_receiver (s := { s.afterTurn with port := rest }) hq he

/-- Settles O23: the synchronizer's registers and RXQ under an instruction, SEND's busy step and any step. -/
theorem onlyPollAndWaitConsumeBytes : Obligations.OnlyPollAndWaitConsumeBytes := by
  refine ⟨fun i s t hi h => ?exec, fun s => ?send, fun s t h hr => ?step⟩
  case exec =>
    obtain ⟨hs, hq⟩ := exec_keeps_receiver hi h
    exact ⟨hq, State.lastRxMs_of_receiver_eq hs⟩
  case send =>
    obtain ⟨hs, hq⟩ := s.sendBusy_keeps_receiver
    exact ⟨hq, State.lastRxMs_of_receiver_eq hs⟩
  case step =>
    rcases step_receiver_cases h hr with ⟨hs, hq⟩ | ⟨hm, ho, _⟩ | ⟨hm, ho, c, rest, hp, hd, _⟩
    · exact .inl ⟨hq, State.lastRxMs_of_receiver_eq hs⟩
    · exact .inr ⟨hm, .inl ho⟩
    · exact .inr ⟨hm, .inr ⟨ho, c, rest, hp, hd⟩⟩

/-- Settles O11: the marker, and any other byte. -/
theorem scanningByteStep : Obligations.ScanningByteStep := fun _ _ hs =>
  ⟨fun hb => hb ▸ State.syncByte_marker hs, State.syncByte_discard hs⟩

/-- Settles O12: the byte step by the number of bytes held. -/
theorem collectingByteStepAppends : Obligations.CollectingByteStepAppends := by
  intro s b n hs hc h1
  have hn : s.rxCount = BitVec.ofNat 4 n := BitVec.eq_of_toNat_eq (by rw [hc, BitVec.toNat_ofNat]; omega)
  exact ⟨State.syncByte_rxBuf b hs hn h1 n.isLt, State.syncByte_append b hs hn h1⟩

/-- Settles O13: the byte step at seven bytes held, the end marker. -/
theorem endMarkerAcceptsFrame : Obligations.EndMarkerAcceptsFrame := fun _ b hs hc hb =>
  (State.syncByte_last b hs hc).trans (if_pos hb)

/-- Settles O14: the byte step at seven bytes held, another byte. -/
theorem endMarkerMismatchLosesSync : Obligations.EndMarkerMismatchLosesSync := fun _ b hs hc hb =>
  (State.syncByte_last b hs hc).trans (if_neg hb)

/-- Settles O15: the guard's equation; the invariant bounds the count while COLLECTING. -/
theorem capacityGuardResets : Obligations.CapacityGuardResets := by
  intro s b hs hc
  have hcount : s.rxCount.toNat = 0 ∨ 8 ≤ s.rxCount.toNat := hc.imp_left (congrArg BitVec.toNat)
  refine ⟨State.syncByte_overflow b hs hcount, fun ⟨_, hinv⟩ => ?_⟩
  obtain ⟨h1, h7, _⟩ := hinv hs
  omega

/-- Settles O18: the decoder's equation for WAIT, and both outcomes of the attachment check. -/
theorem waitIssueLatches : Obligations.WaitIssueLatches :=
  ⟨fun _ => decode_wait, fun _ _ =>
    ⟨fun ha => congrArg Host.Outcome.next (State.whenAttached_of_attached _ _ ha),
      fun ha => congrArg Host.Outcome.next (State.whenAttached_of_unattached _ _ ha)⟩⟩

end Sys2Proof.Machine
end

/-! PROOFS of the codec family (41_codec.md): Decode's fields and what it ignores, Encode's bytes, DECODE_EXT. -/

section
/-!
SUPPORT. The fields of an inbound frame as masks and shifts of its bytes (R131 to R136), the bytes of an outbound frame
(R140 to R143), and DECODE_EXT's operand and effect (R147).
-/
namespace Sys2Proof.Machine

/-- A field of a byte, cut out by a mask and a shift. -/
theorem setWidth_extractLsb'_eq_mask_shift {b m : Byte} {i n : Nat} (hm : m >>> i = (BitVec.allOnes n).setWidth 8) :
    (b.extractLsb' i n).setWidth 8 = (b &&& m) >>> i := by
  rw [BitVec.ushiftRight_and_distrib, hm]
  ext j
  simp [Bool.and_comm]

/-- A field that a mask covers is the same in bytes that agree under the mask. -/
theorem extractLsb'_congr_of_and {b c m : Byte} {i n : Nat} (hm : m.extractLsb' i n = BitVec.allOnes n)
    (h : b &&& m = c &&& m) : b.extractLsb' i n = c.extractLsb' i n := by
  have hfield := congrArg (BitVec.extractLsb' i n) h
  simpa only [BitVec.extractLsb'_and, hm, BitVec.and_allOnes] using hfield

section
variable (f : Frame)

theorem inPower_eq_mask : (inPower f).setWidth 8 = f[3] &&& 0x01#8 := setWidth_extractLsb'_eq_mask_shift (i := 0) rfl

theorem inMode_eq_mask : (inMode f).setWidth 8 = (f[3] &&& 0x0E#8) >>> 1 := setWidth_extractLsb'_eq_mask_shift rfl

theorem inFan_eq_mask : (inFan f).setWidth 8 = (f[3] &&& 0x70#8) >>> 4 := setWidth_extractLsb'_eq_mask_shift rfl

theorem inTargetRaw_eq_mask : inTargetRaw f = f[4] &&& 0x7F#8 := setWidth_extractLsb'_eq_mask_shift (i := 0) rfl

theorem inRoomRaw_eq_mask : inRoomRaw f = (f[6] &&& 0x7E#8) >>> 1 := setWidth_extractLsb'_eq_mask_shift rfl

theorem inPresent_iff_mask : inPresent f = true ↔ f[6] &&& 0x01#8 = 0x01#8 := by
  have hbit : (f[6].extractLsb' 0 1).setWidth 8 = f[6] &&& 0x01#8 := setWidth_extractLsb'_eq_mask_shift (i := 0) rfl
  rw [inPresent, beq_iff_eq, ← hbit]
  exact ⟨fun h => by rw [h]; rfl, fun h => by simpa using congrArg (BitVec.setWidth 1) h⟩

end

/-! Decode, a register at a time (R131 to R135, R137). -/

section
variable (f : Frame) (s : State)

@[simp] theorem State.decodeFrame_onOff : (s.decodeFrame f).onOff = inPower f :=
  (congrArg State.onOff (s.decodeFrame_eq f) :)

@[simp] theorem State.decodeFrame_mode : (s.decodeFrame f).mode = inMode f :=
  (congrArg State.mode (s.decodeFrame_eq f) :)

@[simp] theorem State.decodeFrame_fan : (s.decodeFrame f).fan = inFan f :=
  (congrArg State.fan (s.decodeFrame_eq f) :)

theorem State.decodeFrame_targetTemp :
    (s.decodeFrame f).targetTemp =
      if (f[4] &&& 0x7F#8).toNat ≤ s.cfg.tgtRawMax.toNat then (f[4] &&& 0x7F#8) + s.cfg.tgtTempOffset
      else s.targetTemp := by
  simp only [State.decodeFrame_eq, decodedTarget, inTargetRaw_eq_mask, BitVec.le_def]

theorem State.decodeFrame_currentTemp :
    (s.decodeFrame f).currentTemp =
      if f[6] &&& 0x01#8 = 0x01#8 ∧ ((f[6] &&& 0x7E#8) >>> 1).toNat ≤ s.cfg.roomRawMax.toNat then
        (f[6] &&& 0x7E#8) >>> 1 + s.cfg.roomTempOffset
      else s.currentTemp := by
  simp only [State.decodeFrame_eq, decodedRoom, inPresent_iff_mask, inRoomRaw_eq_mask, BitVec.le_def]

theorem State.decodeFrame_evLog :
    (s.decodeFrame f).evLog =
      s.evLog ++ (if (f[4] &&& 0x7F#8).toNat ≤ s.cfg.tgtRawMax.toNat then [] else [⟨.tgtRange, f[4] &&& 0x7F#8⟩]) ++
        (if f[6] &&& 0x01#8 = 0x01#8 ∧ s.cfg.roomRawMax.toNat < ((f[6] &&& 0x7E#8) >>> 1).toNat then
          [⟨.roomRange, (f[6] &&& 0x7E#8) >>> 1⟩] else []) := by
  simp only [State.decodeFrame_eq, decodeEvents, inTargetRaw_eq_mask, inPresent_iff_mask, inRoomRaw_eq_mask,
    BitVec.le_def, Nat.not_le, List.append_assoc]

end

/-- All that Decode reads of a frame lies under the three masks (R136). -/
theorem State.decodeFrame_congr {f g : Frame} (h3 : f[3] &&& 0x7F#8 = g[3] &&& 0x7F#8)
    (h4 : f[4] &&& 0x7F#8 = g[4] &&& 0x7F#8) (h6 : f[6] &&& 0x7F#8 = g[6] &&& 0x7F#8) (s : State) :
    s.decodeFrame f = s.decodeFrame g := by
  have hpower : inPower f = inPower g := extractLsb'_congr_of_and rfl h3
  have hmode : inMode f = inMode g := extractLsb'_congr_of_and rfl h3
  have hfan : inFan f = inFan g := extractLsb'_congr_of_and rfl h3
  have htarget : inTargetRaw f = inTargetRaw g := congrArg (BitVec.setWidth 8) (extractLsb'_congr_of_and rfl h4)
  have hpresent : inPresent f = inPresent g := congrArg (· == 1#1) (extractLsb'_congr_of_and rfl h6)
  have hroom : inRoomRaw f = inRoomRaw g := congrArg (BitVec.setWidth 8) (extractLsb'_congr_of_and rfl h6)
  simp only [State.decodeFrame_eq, decodedTarget, decodedRoom, decodeEvents, hpower, hmode, hfan, htarget, hpresent, hroom]

/-- The clamp of R141 as truncated subtraction and minimum. -/
theorem outTemp_toNat (cfg : Config) (target : Byte) :
    (outTemp cfg target).toNat = min (target.toNat - cfg.tgtTempOffset.toNat) cfg.tgtRawMax.toNat := by
  have hclamp : clamp ((target.toNat : Int) - cfg.tgtTempOffset.toNat) 0 cfg.tgtRawMax.toNat =
      (min (target.toNat - cfg.tgtTempOffset.toNat) cfg.tgtRawMax.toNat : Nat) := by
    unfold clamp
    split_ifs <;> omega
  rw [outTemp, hclamp, BitVec.ofInt_natCast, BitVec.toNat_ofNat]
  exact Nat.mod_eq_of_lt (by omega)

theorem outRole_eq_ite (cfg : Config) (role : Role) :
    outRole cfg role = if role = .primary then cfg.roleCodePrimary else cfg.roleCodeSecondary := by
  cases role <;> rfl

theorem frameOfData_getElem (d : BitVec 64) (i : Fin 8) : (frameOfData d)[i] = d.extractLsb' (8 * i.val) 8 := by
  fin_cases i <;> rfl

theorem exec_decodeExt_of_unattached {s : State} (len : BitVec 4) (f : Frame) (ha : s.attached = false) :
    exec (.decodeExt len f) s = .next { s with result := 0#32, evLog := s.evLog ++ [⟨.unattached, 0x05#8⟩] } :=
  congrArg Host.Outcome.next (State.whenAttached_of_unattached _ _ ha)

theorem exec_decodeExt_of_attached {s : State} (len : BitVec 4) (f : Frame) (ha : s.attached = true) :
    exec (.decodeExt len f) s =
      .next (if len = 8#4 then (s.decodeFrame f).setResult 1#32 else s.reject .badLen (len.setWidth 8)) :=
  congrArg Host.Outcome.next (State.whenAttached_of_attached _ _ ha)

end Sys2Proof.Machine
end

section
/-!
PROOFS. The statements of the codec family.
-/
namespace Sys2Proof.Machine

/-- Settles O24: Decode's equation for each register, and the branch of it that each clause's hypotheses choose. -/
theorem decodeWritesTheFields : Obligations.DecodeWritesTheFields := by
  intro s f
  refine ⟨?power, ?mode, ?fan, fun hle hlt => ?target, fun hgt => ?staleTarget, fun hp hle hlt => ?room,
    fun hn => ?staleRoom, s.decodeFrame_evLog f⟩
  case power => rw [State.decodeFrame_onOff, inPower_eq_mask]
  case mode => rw [State.decodeFrame_mode, inMode_eq_mask]
  case fan => rw [State.decodeFrame_fan, inFan_eq_mask]
  case target => rw [State.decodeFrame_targetTemp, if_pos hle, BitVec.toNat_add_of_lt hlt]
  case staleTarget => rw [State.decodeFrame_targetTemp, if_neg (Nat.not_le.mpr hgt)]
  case room => rw [State.decodeFrame_currentTemp, if_pos ⟨hp, hle⟩, BitVec.toNat_add_of_lt hlt]
  case staleRoom =>
    rw [State.decodeFrame_currentTemp, if_neg fun ⟨hp, hle⟩ => hn.elim (· hp) (Nat.not_lt.mpr hle)]

/-- Settles O25: Decode's frame, and the masks that cover all it reads. -/
theorem decodeReadsAndWritesNothingElse : Obligations.DecodeReadsAndWritesNothingElse := fun s f _ =>
  ⟨s.decodeFrame_withDecoded f, fun h3 h4 h6 => State.decodeFrame_congr h3 h4 h6 s⟩

/-- Settles O27: the bytes are those of the outbound frame's definition; the three ranges of byte 4 are the clamp's. -/
theorem encodeWritesTheBytes : Obligations.EncodeWritesTheBytes := by
  intro s f
  have h4 : f[4].toNat = min (s.targetTemp.toNat - s.cfg.tgtTempOffset.toNat) s.cfg.tgtRawMax.toNat := outTemp_toNat _ _
  refine ⟨rfl, outRole_eq_ite s.cfg s.role, rfl, rfl, fun hlow => ?below, fun _ hmax => ?within, fun hmax => ?above,
    rfl, rfl, ?checksum, rfl, rfl⟩
  case below => exact BitVec.eq_of_toNat_eq (by rw [h4, Nat.sub_eq_zero_of_le hlow, Nat.zero_min]; rfl)
  case within => rw [h4, Nat.min_eq_left hmax]
  case above => exact BitVec.eq_of_toNat_eq (by rw [h4, Nat.min_eq_right hmax])
  case checksum =>
    have h7 : f[7] = checksum [f[0], f[1], f[2], f[3], f[4], f[5], f[6]] := rfl
    rw [h7, checksum, BitVec.toNat_ofNat]
    simp [Nat.add_assoc]

/-- Settles O29: the decoder's equation and bytes, and the branches of the attachment and the length check. -/
theorem decodeExtRule : Obligations.DecodeExtRule := by
  refine ⟨fun _ => decode_decodeExt, frameOfData_getElem, fun s len f =>
    ⟨exec_decodeExt_of_unattached len f, fun ha hlen => ?badLen, fun ha => exec_decodeExt_of_attached 8#4 f ha⟩⟩
  case badLen => rw [exec_decodeExt_of_attached len f ha, if_neg hlen, State.reject_eq]

end Sys2Proof.Machine
end

/-! PROOFS of the scheduler family (42_scheduler.md): the four setters, SEND's issue step and its busy step. -/

section
/-!
SUPPORT. The setters by their three checks (operand legality, attachment, a changed value), and SEND's two steps by the pending
flag and the elapsed time (42_scheduler.md R162 to R167, R169).
-/
namespace Sys2Proof.Machine

/-- An operand outside its legal values is rejected before the attachment check (R202). -/
theorem exec_of_not_wellFormed {i : Instr} (s : State) (hw : i.wellFormed = false) :
    exec i s = .next { s with result := 0#32, evLog := s.evLog ++ [⟨.badCmd, i.opcode⟩] } := by
  cases i with
  | setMode code => exact congrArg Host.Outcome.next (if_neg (Bool.eq_false_iff.mp hw))
  | setFan code => exact congrArg Host.Outcome.next (if_neg (Bool.eq_false_iff.mp hw))
  | _ => cases hw

/-- A setter with a legal operand reports on an unattached link (R162 to R165, R194). -/
theorem exec_setter_of_unattached {i : Instr} {s : State} (hi : Setter i) (hw : i.wellFormed = true)
    (ha : s.attached = false) :
    exec i s = .next { s with result := 0#32, evLog := s.evLog ++ [⟨.unattached, i.opcode⟩] } := by
  rcases hi with ⟨on, rfl⟩ | ⟨code, rfl⟩ | ⟨code, rfl⟩ | ⟨celsius, rfl⟩
  · exact congrArg Host.Outcome.next (State.whenAttached_of_unattached _ _ ha)
  · exact congrArg Host.Outcome.next ((if_pos hw).trans (State.whenAttached_of_unattached _ _ ha))
  · exact congrArg Host.Outcome.next ((if_pos hw).trans (State.whenAttached_of_unattached _ _ ha))
  · exact congrArg Host.Outcome.next (State.whenAttached_of_unattached _ _ ha)

section
variable {s : State}

theorem exec_setPwr_of_attached (on : BitVec 1) (ha : s.attached = true) :
    exec (.setPwr on) s =
      .next (if on = s.onOff then { s with result := 0#32 } else s.setAndStage on s.mode s.fan s.targetTemp) :=
  congrArg Host.Outcome.next (State.whenAttached_of_attached _ _ ha)

theorem exec_setMode_of_attached {code : BitVec 3} (hl : modeCodeLegal code = true) (ha : s.attached = true) :
    exec (.setMode code) s =
      .next (if code = s.mode then { s with result := 0#32 } else s.setAndStage s.onOff code s.fan s.targetTemp) :=
  congrArg Host.Outcome.next ((if_pos hl).trans (State.whenAttached_of_attached _ _ ha))

theorem exec_setFan_of_attached {code : BitVec 3} (hl : fanCodeLegal code = true) (ha : s.attached = true) :
    exec (.setFan code) s =
      .next (if code = s.fan then { s with result := 0#32 } else s.setAndStage s.onOff s.mode code s.targetTemp) :=
  congrArg Host.Outcome.next ((if_pos hl).trans (State.whenAttached_of_attached _ _ ha))

theorem exec_setTemp_of_attached (celsius : Byte) (ha : s.attached = true) :
    exec (.setTemp celsius) s =
      .next (if celsius = s.targetTemp then { s with result := 0#32 } else s.setAndStage s.onOff s.mode s.fan celsius) :=
  congrArg Host.Outcome.next (State.whenAttached_of_attached _ _ ha)

theorem exec_send_of_unattached (ha : s.attached = false) :
    exec .send s = .next { s with result := 0#32, evLog := s.evLog ++ [⟨.unattached, 0x04#8⟩] } :=
  congrArg Host.Outcome.next (State.whenAttached_of_unattached _ _ ha)

theorem exec_send_of_attached (ha : s.attached = true) : exec .send s = .next s.sendIssue :=
  congrArg Host.Outcome.next (State.whenAttached_of_attached _ _ ha)

end

/-- The elapsed-time test of R169 is the unsigned comparison of the wrapping difference. -/
theorem elapsedAtLeast_iff {now since limit : Ms} : elapsedAtLeast now since limit = true ↔ limit ≤ now - since :=
  decide_eq_true_iff

section
variable {s : State}

theorem State.sendIssue_of_notPending (hp : s.pending = false) : s.sendIssue = { s with result := 0#32 } :=
  if_neg (Bool.eq_false_iff.mp hp)

theorem State.sendIssue_of_elapsed (hp : s.pending = true) (hd : s.cfg.minTxDelayMs ≤ s.nowMs - s.lastRxMs) :
    s.sendIssue = { s with
      txLog := s.txLog ++ s.txSlot.toList.map .byte ++ [.flush], pending := false, result := 1#32 } :=
  (if_pos hp).trans (if_pos (elapsedAtLeast_iff.mpr hd))

theorem State.sendIssue_of_notElapsed (hp : s.pending = true) (hd : s.nowMs - s.lastRxMs < s.cfg.minTxDelayMs) :
    s.sendIssue = { s with
      txWaitStartMs := s.nowMs, txWaitLenMs := s.cfg.minTxDelayMs - (s.nowMs - s.lastRxMs), opState := .waitTx } :=
  (if_pos hp).trans (if_neg (elapsedAtLeast_iff.not.mpr (BitVec.not_le.mpr hd)))

theorem State.sendBusy_of_elapsed (hd : s.txWaitLenMs ≤ s.nowMs - s.txWaitStartMs) :
    s.sendBusy = { s with
      txLog := s.txLog ++ s.txSlot.toList.map .byte ++ [.flush], pending := false, result := 1#32, opState := .idle } :=
  if_pos (elapsedAtLeast_iff.mpr hd)

theorem State.sendBusy_of_notElapsed (hd : s.nowMs - s.txWaitStartMs < s.txWaitLenMs) : s.sendBusy = s :=
  if_neg (elapsedAtLeast_iff.not.mpr (BitVec.not_le.mpr hd))

end

end Sys2Proof.Machine
end

section
/-!
PROOFS. The statements of the scheduler family.
-/
namespace Sys2Proof.Machine

/-- Settles O32: the attachment check, and on an attached link whether the value is new. -/
theorem setPwrRule : Obligations.SetPwrRule := by
  refine ⟨fun _ => decode_setPwr, fun s on =>
    ⟨exec_setter_of_unattached (.inl ⟨on, rfl⟩) rfl, fun ha hc => ?unchanged, fun ha hc => ?changed⟩⟩
  case unchanged => rw [exec_setPwr_of_attached on ha, if_pos hc]
  case changed => rw [exec_setPwr_of_attached on ha, if_neg hc, State.setAndStage]

/-- Settles O33: operand legality first, then the attachment check, then whether the code is new. -/
theorem setModeRule : Obligations.SetModeRule := by
  refine ⟨fun _ => decode_setMode, fun s code =>
    ⟨fun hbad => exec_of_not_wellFormed s (decide_eq_false (Nat.not_le.mpr hbad)),
      fun hl => exec_setter_of_unattached (.inr (.inl ⟨code, rfl⟩)) (decide_eq_true hl),
      fun hl ha hc => ?unchanged, fun hl ha hc => ?changed⟩⟩
  case unchanged => rw [exec_setMode_of_attached (decide_eq_true hl) ha, if_pos hc]
  case changed => rw [exec_setMode_of_attached (decide_eq_true hl) ha, if_neg hc, State.setAndStage]

/-- Settles O34: operand legality first, then the attachment check, then whether the code is new. -/
theorem setFanRule : Obligations.SetFanRule := by
  refine ⟨fun _ => decode_setFan, fun s code =>
    ⟨fun hbad => exec_of_not_wellFormed s (decide_eq_false (Nat.not_le.mpr hbad)),
      fun hl => exec_setter_of_unattached (.inr (.inr (.inl ⟨code, rfl⟩))) (decide_eq_true hl),
      fun hl ha hc => ?unchanged, fun hl ha hc => ?changed⟩⟩
  case unchanged => rw [exec_setFan_of_attached (decide_eq_true hl) ha, if_pos hc]
  case changed => rw [exec_setFan_of_attached (decide_eq_true hl) ha, if_neg hc, State.setAndStage]

/-- Settles O35: the attachment check, and on an attached link whether the value is new; the clamp is the staged frame's. -/
theorem setTempRule : Obligations.SetTempRule := by
  refine ⟨fun _ => decode_setTemp, fun s celsius =>
    ⟨exec_setter_of_unattached (.inr (.inr (.inr ⟨celsius, rfl⟩))) rfl, fun ha hc => ?unchanged, fun ha hc => ?changed⟩⟩
  case unchanged => rw [exec_setTemp_of_attached celsius ha, if_pos hc]
  case changed => rw [exec_setTemp_of_attached celsius ha, if_neg hc, State.setAndStage]

/-- Settles O36: the attachment check, the pending flag, and the elapsed time as numbers. -/
theorem sendIssueRule : Obligations.SendIssueRule := by
  refine ⟨fun _ => decode_send, fun s =>
    ⟨exec_send_of_unattached, fun ha hp => ?nothing, fun ha hp hd => ?transmits, fun ha hp hd => ?parks⟩⟩
  case nothing => rw [exec_send_of_attached ha, State.sendIssue_of_notPending hp]
  case transmits => rw [exec_send_of_attached ha, State.sendIssue_of_elapsed hp (BitVec.le_def.mpr hd)]
  case parks => rw [exec_send_of_attached ha, State.sendIssue_of_notElapsed hp (BitVec.lt_def.mpr hd)]

/-- Settles O37: the block step in WAIT_TX is SEND's busy step, and the elapsed time decides it. -/
theorem sendBusyStepRule : Obligations.SendBusyStepRule := by
  intro s ho
  rw [State.coreTurn_of_waitTx ho]
  refine ⟨fun hd => ?transmits, fun hd => ?waits⟩
  case transmits => rw [State.sendBusy_of_elapsed (BitVec.le_def.mpr hd)]
  case waits => rw [State.sendBusy_of_notElapsed (BitVec.lt_def.mpr hd)]

end Sys2Proof.Machine
end

/-! PROOFS of the host control family (43_host_control.md): ATTACH, the accessors, the commands that only report. -/

section
/-!
SUPPORT. ATTACH by the attachment flag and what else can bind the link (R192, R193), the accessors, one equation each (R195 to
R200), the commands that report on an unattached link (R194), and the operands outside the legal values (R202).
-/
namespace Sys2Proof.Machine

theorem roleOfArg_eq_ite_bit (arg : Word) : roleOfArg arg = if arg.getLsbD 0 then .secondary else .primary := by
  have hbit : arg.extractLsb' 0 1 = 1#1 ↔ arg.getLsbD 0 = true := by simp [BitVec.eq_of_getLsbD_eq_iff]
  simp only [roleOfArg, hbit]

section
variable {s : State}

theorem exec_attach_of_unattached (role : Role) (ha : s.attached = false) :
    exec (.attach role) s = .next { s with role := role, attached := true, result := 1#32 } :=
  congrArg Host.Outcome.next (if_neg (Bool.eq_false_iff.mp ha))

theorem exec_attach_of_attached (role : Role) (ha : s.attached = true) :
    exec (.attach role) s =
      .next { s with result := 0#32, evLog := s.evLog ++ [⟨.reattach, role.code.setWidth 8⟩] } :=
  congrArg Host.Outcome.next (if_pos ha)

theorem exec_wait_of_unattached (ms : Ms) (ha : s.attached = false) :
    exec (.wait ms) s = .next { s with result := 0#32, evLog := s.evLog ++ [⟨.unattached, 0x03#8⟩] } :=
  congrArg Host.Outcome.next (State.whenAttached_of_unattached _ _ ha)

end

section
variable (s : State)

theorem exec_getPower : exec .getPower s = .next { s with result := s.onOff.setWidth 32 } := rfl
theorem exec_getMode : exec .getMode s = .next { s with result := s.mode.setWidth 32 } := rfl
theorem exec_getFan : exec .getFan s = .next { s with result := s.fan.setWidth 32 } := rfl
theorem exec_getTarget : exec .getTarget s = .next { s with result := s.targetTemp.setWidth 32 } := rfl
theorem exec_getCurrent : exec .getCurrent s = .next { s with result := s.currentTemp.setWidth 32 } := rfl
theorem exec_getPending : exec .getPending s = .next { s with result := boolResult s.pending } := rfl

end

/-- The binding of the link: ATTACHED and ROLE (R37, R38). -/
def State.binding (s : State) : Bool × Role := (s.attached, s.role)

theorem State.binding_eq_iff {s t : State} : t.binding = s.binding ↔ t.attached = s.attached ∧ t.role = s.role :=
  Prod.mk_inj

theorem State.waitBusy_binding (s : State) : s.waitBusy.binding = s.binding := by
  rw [State.waitBusy_frame]; rfl

theorem State.sendBusy_binding (s : State) : s.sendBusy.binding = s.binding := by
  rcases s.sendBusy_cases with ⟨_, e⟩ | ⟨_, e⟩
  · rw [e]; rfl
  · rw [e]

/-- Only ATTACH binds, and only an unattached link (R192, R193). -/
theorem exec_binding_cases {i : Instr} {s t : State} (h : exec i s = .next t) :
    t.binding = s.binding ∨ (s.attached = false ∧ t.attached = true ∧ i = .attach t.role) := by
  rcases exec_cases h with ⟨_, _, rfl⟩ | ⟨_, rfl⟩ | ⟨_, rfl, ha, rfl⟩ | ⟨_, _, rfl⟩ | ⟨_, _, _, rfl⟩ | ⟨_, _, rfl⟩ |
    ⟨f, _, _, rfl⟩ | ⟨_, _, _, _, _, _, rfl⟩
  · exact .inl rfl
  · exact .inl rfl
  · exact .inr ⟨ha, rfl, rfl⟩
  · left; rw [State.poll_frame]; rfl
  · exact .inl rfl
  · left; rcases s.sendIssue_cases with ⟨_, e⟩ | ⟨_, _, e⟩ | ⟨_, _, e⟩ <;> rw [e] <;> rfl
  · left; rw [s.decodeFrame_eq f]; rfl
  · exact .inl rfl

/-- A step other than a reset keeps the binding, or it is an ATTACH on an unattached link. -/
theorem step_binding_cases {s t : State} (h : step s = .next t) (hr : s.agenda.head? ≠ some .resetAssert) :
    t.binding = s.binding ∨
    (s.attached = false ∧ t.attached = true ∧ s.opState = .idle ∧
      ∃ c rest, s.port = c :: rest ∧ decode c = .ok (.attach t.role)) := by
  rcases step_cases h with ⟨_, h⟩ | ⟨_, _, rfl⟩ | ⟨_, _, rfl⟩ | ⟨_, _, rfl⟩ | ⟨hreset, _⟩
  · rcases State.coreTurn_cases h with ⟨_, _, rfl⟩ | ⟨c, rest, i, ho, hp, hd, he⟩ | ⟨_, _, _, _, _, _, rfl⟩ | ⟨_, rfl⟩ |
      ⟨_, rfl⟩
    · exact .inl rfl
    · rcases exec_binding_cases he with hb | ⟨ha, ht, rfl⟩
      · exact .inl hb
      · exact .inr ⟨ha, ht, ho, c, rest, hp, hd⟩
    · exact .inl rfl
    · exact .inl s.afterTurn.waitBusy_binding
    · exact .inl s.afterTurn.sendBusy_binding
  · exact .inl rfl
  · exact .inl rfl
  · exact .inl rfl
  · exact absurd hreset hr

/-- No instruction stops the core (R210). -/
theorem exists_exec_eq_next (i : Instr) (s : State) : ∃ t, exec i s = .next t := by
  cases i <;> exact ⟨_, rfl⟩

theorem modeCodeLegal_eq_false_iff (code : BitVec 3) : modeCodeLegal code = false ↔ code = 6#3 ∨ code = 7#3 := by
  revert code; decide

theorem fanCodeLegal_eq_false_iff (code : BitVec 3) :
    fanCodeLegal code = false ↔ code = 5#3 ∨ code = 6#3 ∨ code = 7#3 := by
  revert code; decide

end Sys2Proof.Machine
end

section
/-!
PROOFS. The statements of the host control family.
-/
namespace Sys2Proof.Machine

/-- Settles O42: both outcomes of ATTACH by the attachment flag, and an attached link's binding under any step but a reset. -/
theorem attachRule : Obligations.AttachRule := by
  refine ⟨fun c hop => ?decode, fun s role => ⟨exec_attach_of_unattached role, fun ha => ?again⟩, fun s t ha h hr => ?step⟩
  case decode => rw [decode_attach hop, roleOfArg_eq_ite_bit]
  case again =>
    rw [exec_attach_of_attached role ha]
    cases role <;> rfl
  case step =>
    rcases step_binding_cases h hr with hb | ⟨hfalse, _⟩
    · obtain ⟨hattached, hrole⟩ := State.binding_eq_iff.mp hb
      exact ⟨hattached.trans ha, hrole⟩
    · simp [ha] at hfalse

/-- Settles O8: an opcode outside the map is what the decoder rejects, and a command that decodes runs an instruction. -/
theorem unassignedOpcodeOnlyReports : Obligations.UnassignedOpcodeOnlyReports := by
  refine ⟨fun s c rest hm ho hp hop => ?reports, fun c s => ?next⟩
  case reports =>
    rw [step_of_coreMoves hm, State.coreTurn_of_command (s := s.afterTurn) ho hp,
      State.acceptCommand_of_error (notMem_assignedOpcodes_iff.mp hop)]
    rfl
  case next =>
    rcases hd : decode c with ⟨op⟩ | i
    · exact ⟨_, State.acceptCommand_of_error hd s⟩
    · rw [State.acceptCommand_of_ok hd]
      exact exists_exec_eq_next i s

/-- Settles O43: the failed attachment check of each command, and the accessors' equations, none of which reads ATTACHED. -/
theorem unattachedCommandsOnlyReport : Obligations.UnattachedCommandsOnlyReport := by
  refine ⟨fun s i ha hw hi => ?reports, fun s role => exec_attach_of_unattached role, fun s b i hi => ?accessor⟩
  case reports =>
    rcases hi with rfl | ⟨ms, rfl⟩ | rfl | ⟨len, f, rfl⟩ | hsetter
    · exact exec_poll_of_unattached ha
    · exact exec_wait_of_unattached ms ha
    · exact exec_send_of_unattached ha
    · exact exec_decodeExt_of_unattached len f ha
    · exact exec_setter_of_unattached hsetter hw ha
  case accessor =>
    rcases hi with rfl | rfl | rfl | rfl | rfl | rfl
    · exact ⟨_, exec_getPower s, exec_getPower _⟩
    · exact ⟨_, exec_getMode s, exec_getMode _⟩
    · exact ⟨_, exec_getFan s, exec_getFan _⟩
    · exact ⟨_, exec_getTarget s, exec_getTarget _⟩
    · exact ⟨_, exec_getCurrent s, exec_getCurrent _⟩
    · exact ⟨_, exec_getPending s, exec_getPending _⟩

/-- Settles O44: the decoder's and the accessors' equations; the register's number as 32 bits is its zero-extension. -/
theorem accessorsReadTheirRegister : Obligations.AccessorsReadTheirRegister := by
  refine ⟨fun c => ⟨decode_getPower, decode_getMode, decode_getFan, decode_getTarget, decode_getPending⟩, fun s => ?_⟩
  simp only [BitVec.ofNat_toNat]
  exact ⟨exec_getPower s, exec_getMode s, exec_getFan s, exec_getTarget s, exec_getPending s⟩

/-- Settles O46: an operand that is not legal is rejected first, and only SETMODE and SETFAN have such operands. -/
theorem illegalOperandsOnlyReport : Obligations.IllegalOperandsOnlyReport := by
  refine fun s => ⟨fun code hbad => exec_of_not_wellFormed s ((modeCodeLegal_eq_false_iff code).mpr hbad),
    fun code hbad => exec_of_not_wellFormed s ((fanCodeLegal_eq_false_iff code).mpr hbad), fun i => ?legal⟩
  cases i with
  | setMode code => simpa [Instr.wellFormed] using modeCodeLegal_eq_false_iff code
  | setFan code => simpa [Instr.wellFormed] using fanCodeLegal_eq_false_iff code
  | _ => simp [Instr.wellFormed]

end Sys2Proof.Machine
end

/-! PROOFS of the reset family (70_reset_and_hazards.md): the reset input's step. -/

section
/-!
SUPPORT. The step by the first turn of the agenda, and the step in which the reset input is asserted (R240).
-/
namespace Sys2Proof.Machine

section
variable {s : State} {rest : List Turn}

/-- The turn taken leaves the agenda before it has its effect (log 3). -/
theorem step_of_agenda_cons {turn : Turn} (h : s.agenda = turn :: rest) :
    step s = { s with agenda := rest }.turn turn := by
  unfold step
  rw [h]

theorem step_of_resetAssert (h : s.agenda = .resetAssert :: rest) :
    step s = .next { s with agenda := rest }.applyReset := by
  rw [step_of_agenda_cons h, State.turn]

end

end Sys2Proof.Machine
end

section
/-!
PROOFS. The statements of the reset family.
-/
namespace Sys2Proof.Machine

/-- Settles O53: the step is the reset of the state the turn leaves, whose every field is R241's value or the one before. -/
theorem resetPutsEveryRegister : Obligations.ResetPutsEveryRegister := by
  intro s rest h
  refine ⟨_, step_of_resetAssert h, ?fields⟩
  case fields => and_intros <;> rfl

end Sys2Proof.Machine
end

/-! PROOFS of the other families: the inverse pair of the decoder and the encoder, the logs, the invariants every step keeps, and
the statements about single operations and whole runs that no family above holds. -/

section
/-!
SUPPORT. What the encoder places in a command word and the decoder reads from it, field by field (30_encoding.md R83, R84).
-/
namespace Sys2Proof

/-- An operand field placed in `arg` is read back. -/
theorem extractLsb'_setWidth_of_le {n w : Nat} (x : BitVec n) (h : n ≤ w) : (x.setWidth w).extractLsb' 0 n = x := by
  ext i hi
  simp [show i < w by omega, BitVec.getLsbD_eq_getElem hi]

theorem roleOfArg_code (role : Role) : roleOfArg (role.code.setWidth 32) = role := by cases role <;> rfl

/-- The encoder writes what the decoder reads, whatever the operands. -/
theorem decode_encode (i : Instr) : decode (encode i) = .ok i := by
  cases i with
  | attach role => rw [decode_attach rfl, encode, Instr.arg, roleOfArg_code]
  | decodeExt len frame =>
    rw [decode_decodeExt rfl, encode, Instr.arg, Instr.data, extractLsb'_setWidth_of_le len (by decide),
      frameOfData_dataOfFrame]
  | setPwr on => rw [decode_setPwr rfl, encode, Instr.arg, extractLsb'_setWidth_of_le on (by decide)]
  | setMode code => rw [decode_setMode rfl, encode, Instr.arg, extractLsb'_setWidth_of_le code (by decide)]
  | setFan code => rw [decode_setFan rfl, encode, Instr.arg, extractLsb'_setWidth_of_le code (by decide)]
  | setTemp celsius => rw [decode_setTemp rfl, encode, Instr.arg, extractLsb'_setWidth_of_le celsius (by decide)]
  -- the timeout is all of `arg`, and the other commands have no operand
  | _ => rfl

/-- The low bits of `arg`, put back in place, are `arg` under their mask. -/
theorem setWidth_extractLsb'_eq_and {n : Nat} {m : Word} (arg : Word) (hm : m = (BitVec.allOnes n).setWidth 32) :
    (arg.extractLsb' 0 n).setWidth 32 = arg &&& m := by
  subst hm
  ext i hi
  simp [Bool.and_comm, BitVec.getLsbD_eq_getElem hi]

theorem setWidth_roleOfArg_code (arg : Word) : (roleOfArg arg).code.setWidth 32 = arg &&& 0x1#32 := by
  rw [← setWidth_extractLsb'_eq_and (n := 1) (m := 0x1#32) arg rfl, roleOfArg]
  congr 1
  generalize arg.extractLsb' 0 1 = bit
  revert bit
  decide

section
variable {c : Command} {i : Instr}

/-- A command with its reserved bits cleared, from its opcode and the two operand words (R84). -/
theorem encode_eq_clearReserved_of_operands (hop : c.op = i.opcode) (harg : i.arg = c.arg &&& argMask i.opcode)
    (hdata : i.data = if i.opcode = 0x05#8 then c.data else 0#64) : encode i = c.clearReserved := by
  rw [encode, Command.clearReserved, hop, harg, hdata]

/-- The decoder reads every bit that the mask of its opcode keeps. -/
theorem encode_eq_clearReserved_of_decode_ok (h : decode c = .ok i) : encode i = c.clearReserved := by
  have hop := opcode_eq_of_decode_ok h
  refine encode_eq_clearReserved_of_operands hop ?arg ?data
  case arg =>
    cases i with
    | attach role => rw [decode_attach hop] at h; cases h; exact setWidth_roleOfArg_code c.arg
    | wait ms => rw [decode_wait hop] at h; cases h; exact BitVec.and_allOnes.symm
    | decodeExt len frame => rw [decode_decodeExt hop] at h; cases h; exact setWidth_extractLsb'_eq_and c.arg rfl
    | setPwr on => rw [decode_setPwr hop] at h; cases h; exact setWidth_extractLsb'_eq_and c.arg rfl
    | setMode code => rw [decode_setMode hop] at h; cases h; exact setWidth_extractLsb'_eq_and c.arg rfl
    | setFan code => rw [decode_setFan hop] at h; cases h; exact setWidth_extractLsb'_eq_and c.arg rfl
    | setTemp celsius => rw [decode_setTemp hop] at h; cases h; exact setWidth_extractLsb'_eq_and c.arg rfl
    | _ => exact BitVec.and_zero.symm
  case data =>
    cases i with
    | decodeExt len frame => rw [decode_decodeExt hop] at h; cases h; exact dataOfFrame_frameOfData c.data
    | _ => rfl

end

end Sys2Proof
end

section
/-!
PROOFS. The statements that decoding and encoding invert each other.
-/
namespace Sys2Proof

/-- Settles O3: the decoder reads each field back, and a command survives its bits. -/
theorem decodeInvertsEncode : Obligations.DecodeInvertsEncode := fun i =>
  ⟨decode_encode i, by rw [Command.ofWord_word, decode_encode]⟩

/-- Settles O4: field by field, what the decoder reads is what the mask keeps. -/
theorem encodeInvertsDecode : Obligations.EncodeInvertsDecode := fun _ _ => encode_eq_clearReserved_of_decode_ok

/-- Settles O2: the decoder evaluated on each word. -/
theorem specWordsDecode : Obligations.SpecWordsDecode := by
  unfold Obligations.SpecWordsDecode
  decide

end Sys2Proof
end

section
/-!
SUPPORT. A step by the turn it takes (00_scope.md R6, R17), the turns that stop it (20_memory.md R62, 10_state.md R33), and what
no step writes.
-/
namespace Sys2Proof.Machine

section
variable {s : State} {rest : List Turn}

theorem step_of_rxArrive {bytes : List Byte} (h : s.agenda = .rxArrive bytes :: rest) :
    step s = .next { s with rxq := s.rxq ++ bytes, agenda := rest } := by
  rw [step_of_agenda_cons h, State.turn, State.rxArrive]

theorem step_of_clockAdvance {ms : Nat} (h : s.agenda = .clockAdvance ms :: rest) :
    step s = .next { s with nowMs := BitVec.ofNat 32 (s.nowMs.toNat + ms), agenda := rest } := by
  rw [step_of_agenda_cons h, State.turn, State.clockAdvance, BitVec.ofNat_add, BitVec.ofNat_toNat, BitVec.setWidth_eq]

theorem step_of_hostPresent {c : Command} (h : s.agenda = .hostPresent c :: rest) :
    step s = .next { s with port := s.port ++ [c], agenda := rest } := by
  rw [step_of_agenda_cons h, State.turn, State.hostPresent]

theorem step_of_secondHost (h : s.agenda = .secondHost :: rest) : step s = .refused .secondHost := by
  rw [step_of_agenda_cons h, State.turn]

/-- The reset input's step, by the head of the agenda (R240). -/
theorem step_of_head_resetAssert (h : s.agenda.head? = some .resetAssert) : step s = .next s.afterTurn.applyReset := by
  obtain ⟨rest, ha⟩ := List.head?_eq_some_iff.mp h
  rw [step_of_resetAssert ha, State.afterTurn, ha, List.tail_cons]

end

/-- The block step in the unused OP_STATE (log 7). -/
theorem State.coreTurn_of_unused {s : State} (ho : s.opState = .unused) : s.coreTurn = .fault .opStateUnused := by
  unfold State.coreTurn; rw [ho]

/-- The core's block step has a next state, but in the unused OP_STATE. -/
theorem State.coreTurn_next_or_fault (s : State) :
    (∃ t, s.coreTurn = .next t) ∨ (s.opState = .unused ∧ s.coreTurn = .fault .opStateUnused) := by
  cases ho : s.opState with
  | idle =>
    cases hp : s.port with
    | nil => exact .inl ⟨_, State.coreTurn_of_noCommand ho hp⟩
    | cons c rest =>
      rw [State.coreTurn_of_command ho hp]
      exact .inl (unassignedOpcodeOnlyReports.2 c _)
  | waitRx => exact .inl ⟨_, State.coreTurn_of_waitRx ho⟩
  | waitTx => exact .inl ⟨_, State.coreTurn_of_waitTx ho⟩
  | unused => exact .inr ⟨rfl, State.coreTurn_of_unused ho⟩

/-- A step has a next state, or its turn is a second host's, or it is a core turn in the unused OP_STATE. -/
theorem step_next_or_stop (s : State) :
    (∃ t, step s = .next t) ∨ (s.agenda.head? = some .secondHost ∧ step s = .refused .secondHost) ∨
    (s.coreMoves ∧ s.opState = .unused ∧ step s = .fault .opStateUnused) := by
  by_cases hm : s.coreMoves
  · rw [step_of_coreMoves hm]
    exact s.afterTurn.coreTurn_next_or_fault.imp_right fun ⟨ho, hf⟩ => .inr ⟨hm, ho, hf⟩
  · cases ha : s.agenda with
    | nil => exact absurd (.inl ha) hm
    | cons turn rest =>
      cases turn with
      | core => exact absurd (.inr ⟨rest, ha⟩) hm
      | rxArrive bytes => exact .inl ⟨_, step_of_rxArrive ha⟩
      | clockAdvance ms => exact .inl ⟨_, step_of_clockAdvance ha⟩
      | hostPresent c => exact .inl ⟨_, step_of_hostPresent ha⟩
      | resetAssert => exact .inl ⟨_, step_of_resetAssert ha⟩
      | secondHost => exact .inr (.inl ⟨rfl, step_of_secondHost ha⟩)

/-- What every core turn keeps: the configuration, the turns to come and the clock. -/
theorem State.coreTurn_keeps {s t : State} (h : s.coreTurn = .next t) :
    t.cfg = s.cfg ∧ t.agenda = s.agenda ∧ t.nowMs = s.nowMs := by
  rcases State.coreTurn_cases h with ⟨_, _, rfl⟩ | ⟨_, rest, _, _, _, _, he⟩ | ⟨_, _, _, _, _, _, rfl⟩ | ⟨_, rfl⟩ | ⟨_, rfl⟩
  · exact ⟨rfl, rfl, rfl⟩
  · exact exec_keeps (s := { s with port := rest }) he
  · exact ⟨rfl, rfl, rfl⟩
  · rw [State.waitBusy_frame]; exact ⟨rfl, rfl, rfl⟩
  · rcases s.sendBusy_cases with ⟨_, e⟩ | ⟨_, e⟩ <;> rw [e] <;> exact ⟨rfl, rfl, rfl⟩

/-- The configuration, the agenda and the clock over a step (R220, logs 1, 3). -/
theorem step_keeps {s t : State} (h : step s = .next t) :
    t.cfg = s.cfg ∧ t.agenda = s.agenda.tail ∧ (t.nowMs = s.nowMs ∨ ∃ ms, s.agenda.head? = some (.clockAdvance ms)) := by
  rcases step_cases h with ⟨_, h⟩ | ⟨_, _, rfl⟩ | ⟨ms, ha, rfl⟩ | ⟨_, _, rfl⟩ | ⟨_, rfl⟩
  · obtain ⟨hcfg, hagenda, hnow⟩ := State.coreTurn_keeps h
    exact ⟨hcfg, hagenda, .inl hnow⟩
  · exact ⟨rfl, rfl, .inl rfl⟩
  · exact ⟨rfl, rfl, .inr ⟨ms, ha⟩⟩
  · exact ⟨rfl, rfl, .inl rfl⟩
  · exact ⟨rfl, rfl, .inl rfl⟩

theorem step_cfg {s t : State} (h : step s = .next t) : t.cfg = s.cfg := (step_keeps h).1

/-- In IDLE, WAIT parks in WAIT_RX, a SEND that may not transmit yet parks in WAIT_TX, and every other command ends in IDLE
(R108, R166, R190). -/
theorem exec_opState_cases {i : Instr} {s t : State} (ho : s.opState = .idle) (h : exec i s = .next t) :
    t.opState = .idle ∨
    (∃ ms, i = .wait ms ∧ s.attached = true ∧ t = { s with waitStartMs := s.nowMs, waitTimeoutMs := ms, opState := .waitRx }) ∨
    (i = .send ∧ s.attached = true ∧ s.pending = true ∧ s.nowMs - s.lastRxMs < s.cfg.minTxDelayMs ∧
      t = { s with
        txWaitStartMs := s.nowMs, txWaitLenMs := s.cfg.minTxDelayMs - (s.nowMs - s.lastRxMs), opState := .waitTx }) := by
  rcases exec_cases h with ⟨_, _, rfl⟩ | ⟨_, rfl⟩ | ⟨_, _, _, rfl⟩ | ⟨_, _, rfl⟩ | ⟨ms, hi, ha, rfl⟩ | ⟨hi, ha, rfl⟩ |
    ⟨f, _, _, rfl⟩ | ⟨_, _, _, _, _, _, rfl⟩
  · exact .inl ho
  · exact .inl ho
  · exact .inl ho
  · left; rw [State.poll_frame]; exact ho
  · exact .inr (.inl ⟨ms, hi, ha, rfl⟩)
  · rcases s.sendIssue_cases with ⟨_, e⟩ | ⟨_, _, e⟩ | ⟨hp, hd, e⟩
    · left; rw [e]; exact ho
    · left; rw [e]; exact ho
    · exact .inr (.inr ⟨hi, ha, hp, hd, e⟩)
  · left; rw [s.decodeFrame_eq f]; exact ho
  · exact .inl ho

end Sys2Proof.Machine
end

section
/-!
PROOFS. The statements about the step and its turns.
-/
namespace Sys2Proof.Machine

/-- Settles O7: the core's turn in IDLE accepts the first command, which runs its instruction. -/
theorem stepRunsDecodedCommand : Obligations.StepRunsDecodedCommand := by
  intro s c rest i hm ho hp hd
  rw [step_of_coreMoves hm, State.coreTurn_of_command (s := s.afterTurn) ho hp, State.acceptCommand_of_ok hd]

/-- Settles O9: one equation a turn; the last two clauses since a step that stops is one of two. -/
theorem everyTurnHasItsEffect : Obligations.EveryTurnHasItsEffect := by
  refine fun s rest => ⟨fun _ => step_of_rxArrive, fun _ => step_of_clockAdvance, fun _ => step_of_hostPresent,
    step_of_coreMoves, fun hm ho hp => ?idle, step_of_resetAssert, step_of_secondHost, fun hm ho => ?unused,
    fun r h => ?refused, fun f h => ?fault⟩
  case idle => rw [step_of_coreMoves hm, State.coreTurn_of_noCommand (s := s.afterTurn) ho hp]
  case unused => rw [step_of_coreMoves hm, State.coreTurn_of_unused (s := s.afterTurn) ho]
  case refused =>
    rcases step_next_or_stop s with ⟨_, e⟩ | ⟨ha, e⟩ | ⟨_, _, e⟩ <;> rw [e] at h <;> cases h
    exact ⟨rfl, ha⟩
  case fault =>
    rcases step_next_or_stop s with ⟨_, e⟩ | ⟨_, e⟩ | ⟨hm, ho, e⟩ <;> rw [e] at h <;> cases h
    exact ⟨rfl, hm, ho⟩

/-- Settles O47: no instruction stops, and a step that stops is one of the two the hypotheses exclude. -/
theorem noConditionIsFatal : Obligations.NoConditionIsFatal := by
  refine ⟨exists_exec_eq_next, fun s ho ha => ?_⟩
  rcases step_next_or_stop s with hn | ⟨hsecond, _⟩ | ⟨_, hunused, _⟩
  · exact hn
  · exact absurd hsecond ha
  · exact absurd hunused ho

/-- Settles O52: what every kind of turn keeps. -/
theorem clockAndConfigurationAreNotWritten : Obligations.ClockAndConfigurationAreNotWritten := fun _ _ => step_keeps

/-- Settles O10: a busy core's turn is its busy step, which has the port in its frame; and only WAIT and SEND can leave IDLE. -/
theorem portHoldsWhileBusy : Obligations.PortHoldsWhileBusy := by
  refine ⟨fun s t hb hr h => ?busy, fun i s ho hwait hsend => ?completes⟩
  case busy =>
    have hidle : s.opState ≠ .idle := fun h => by simp [h] at hb
    rcases step_cases h with ⟨_, h⟩ | ⟨_, _, rfl⟩ | ⟨_, _, rfl⟩ | ⟨c, _, rfl⟩ | ⟨hreset, _⟩
    · rcases State.coreTurn_cases h with ⟨ho, _⟩ | ⟨_, _, _, ho, _⟩ | ⟨_, _, _, ho, _⟩ | ⟨_, rfl⟩ | ⟨_, rfl⟩
      · exact absurd ho hidle
      · exact absurd ho hidle
      · exact absurd ho hidle
      · rw [State.waitBusy_frame]; exact List.prefix_rfl
      · rcases s.afterTurn.sendBusy_cases with ⟨_, e⟩ | ⟨_, e⟩ <;> rw [e] <;> exact List.prefix_rfl
    · exact List.prefix_rfl
    · exact List.prefix_rfl
    · exact List.prefix_append s.port [c]
    · exact absurd hreset hr
  case completes =>
    obtain ⟨t, h⟩ := exists_exec_eq_next i s
    rcases exec_opState_cases ho h with ht | ⟨ms, hi, _⟩ | ⟨hi, _⟩
    · exact ⟨t, h, ht⟩
    · exact absurd hi (hwait ms)
    · exact absurd hi hsend

/-- Settles O48: a step but a reset keeps the binding, or it is an ATTACH on an unattached link. -/
theorem attachmentChangesOnce : Obligations.AttachmentChangesOnce := by
  intro s t h hr
  rcases step_binding_cases h hr with hb | ⟨hs, ht, ho, hc⟩
  · obtain ⟨hattached, hrole⟩ := State.binding_eq_iff.mp hb
    exact ⟨fun ha => ⟨hattached.trans ha, hrole⟩, fun ha ht => by simp [← hattached, ht] at ha, fun _ _ => hrole⟩
  · exact ⟨fun ha => by simp [hs] at ha, fun _ _ => ⟨ho, hc⟩, fun _ hf => by simp [ht] at hf⟩

/-- Settles O45: the accessor's equation; a reset leaves the register at its parameter. -/
theorem roomTemperatureAccessor : Obligations.RoomTemperatureAccessor := by
  refine ⟨fun _ => decode_getCurrent, fun s => ⟨?effect, _, exec_getCurrent _, ?reset⟩⟩
  case effect => rw [BitVec.ofNat_toNat, exec_getCurrent]
  case reset => exact BitVec.toNat_setWidth_of_le (by decide)

end Sys2Proof.Machine
end

section
/-!
SUPPORT. Records of the past put in front of both logs: every operation of the core commutes with that, which is how the core
neither reads nor rewrites a log (60_exceptions.md R211, 20_memory.md R57).
-/
namespace Sys2Proof.Machine

/-- `s` with older records in front of its event log and its TX log. -/
def State.prependLogs (ev : List Event) (tx : List TxItem) (s : State) : State :=
  s.withLogs (ev ++ s.evLog) (tx ++ s.txLog)

/-- A step's answer with older records in front of the logs of its next state. -/
def prependOutcomeLogs (ev : List Event) (tx : List TxItem) :
    Host.Outcome State Fault Refusal → Host.Outcome State Fault Refusal
  | .next t => .next (t.prependLogs ev tx)
  | .fault r => .fault r
  | .refused r => .refused r

section
variable (ev : List Event) (tx : List TxItem) (s : State)

theorem State.prependLogs_eq : s.prependLogs ev tx = { s with evLog := ev ++ s.evLog, txLog := tx ++ s.txLog } := rfl

@[simp] theorem State.prependLogs_onOff : (s.prependLogs ev tx).onOff = s.onOff := rfl
@[simp] theorem State.prependLogs_mode : (s.prependLogs ev tx).mode = s.mode := rfl
@[simp] theorem State.prependLogs_fan : (s.prependLogs ev tx).fan = s.fan := rfl
@[simp] theorem State.prependLogs_targetTemp : (s.prependLogs ev tx).targetTemp = s.targetTemp := rfl
@[simp] theorem State.prependLogs_attached : (s.prependLogs ev tx).attached = s.attached := rfl
@[simp] theorem State.prependLogs_cfg : (s.prependLogs ev tx).cfg = s.cfg := rfl

/-- Any two logs are those of the state without logs, with older records in front. -/
theorem State.withLogs_eq_prependLogs : s.withLogs ev tx = (s.withLogs [] []).prependLogs ev tx := by
  simp [State.prependLogs, State.withLogs_eq]

theorem State.emit_prependLogs (code : EventCode) (info : Byte) :
    (s.prependLogs ev tx).emit code info = (s.emit code info).prependLogs ev tx := by
  simp [State.emit_eq, State.prependLogs_eq]

theorem State.setResult_prependLogs (v : Word) :
    (s.prependLogs ev tx).setResult v = (s.setResult v).prependLogs ev tx := rfl

theorem State.reject_prependLogs (code : EventCode) (info : Byte) :
    (s.prependLogs ev tx).reject code info = (s.reject code info).prependLogs ev tx := by
  rw [State.reject, State.emit_prependLogs, State.setResult_prependLogs, State.reject]

theorem State.decodeFrame_prependLogs (f : Frame) :
    (s.prependLogs ev tx).decodeFrame f = (s.decodeFrame f).prependLogs ev tx := by
  simp [State.decodeFrame_eq, State.prependLogs_eq]

theorem State.transmit_prependLogs : (s.prependLogs ev tx).transmit = s.transmit.prependLogs ev tx := by
  simp [State.transmit_eq, State.prependLogs_eq]

/-- The receive loop appends events that do not depend on those before. -/
theorem State.receive_prependLogs (drain : Bool) :
    (s.prependLogs ev tx).receive drain = ((s.receive drain).1.prependLogs ev tx, (s.receive drain).2) := by
  obtain ⟨new, hnew, hwith⟩ := s.consume_withLogs drain false s.rxq
  have hloop : (s.prependLogs ev tx).receive drain = (s.prependLogs ev tx).consume drain false s.rxq := rfl
  rw [hloop, State.prependLogs, hwith, State.receive, State.prependLogs, hnew, State.consume_txLog, List.append_assoc]

/-- The attachment check commutes where its body does. -/
theorem State.whenAttached_prependLogs {body : State → State} (op : Byte)
    (h : body (s.prependLogs ev tx) = (body s).prependLogs ev tx) :
    (s.prependLogs ev tx).whenAttached op body = (s.whenAttached op body).prependLogs ev tx := by
  rw [State.whenAttached, State.whenAttached, State.prependLogs_attached]
  split
  · exact h
  · exact State.reject_prependLogs ev tx s _ _

theorem State.poll_prependLogs : (s.prependLogs ev tx).poll = s.poll.prependLogs ev tx := by
  rw [State.poll, State.prependLogs_cfg, State.receive_prependLogs]
  rfl

theorem State.sendIssue_prependLogs : (s.prependLogs ev tx).sendIssue = s.sendIssue.prependLogs ev tx := by
  rcases s.sendIssue_cases with ⟨hp, e⟩ | ⟨hp, hd, e⟩ | ⟨hp, hd, e⟩
  · rw [e]
    exact State.sendIssue_of_notPending (s := s.prependLogs ev tx) hp
  · rw [e, State.sendIssue_of_elapsed (s := s.prependLogs ev tx) hp hd]
    simp [State.prependLogs_eq]
  · rw [e]
    exact State.sendIssue_of_notElapsed (s := s.prependLogs ev tx) hp hd

theorem State.sendBusy_prependLogs : (s.prependLogs ev tx).sendBusy = s.sendBusy.prependLogs ev tx := by
  rcases s.sendBusy_cases with ⟨hd, e⟩ | ⟨hd, e⟩
  · rw [e, State.sendBusy_of_elapsed (s := s.prependLogs ev tx) hd]
    simp [State.prependLogs_eq]
  · rw [e]
    exact State.sendBusy_of_notElapsed (s := s.prependLogs ev tx) hd

theorem State.waitBusy_prependLogs : (s.prependLogs ev tx).waitBusy = s.waitBusy.prependLogs ev tx := by
  rw [State.waitBusy, State.waitBusy, State.receive_prependLogs, apply_ite (State.prependLogs ev tx)]
  refine ite_congr rfl (fun _ => rfl) fun _ => ?_
  rw [apply_ite (State.prependLogs ev tx)]
  refine ite_congr rfl (fun _ => ?_) fun _ => rfl
  rw [State.reject_prependLogs]
  rfl

/-- The two branches of DECODE_EXT's length check (R147). -/
theorem State.decodeExt_prependLogs (len : BitVec 4) (f : Frame) :
    (if len = 8#4 then ((s.prependLogs ev tx).decodeFrame f).setResult 1#32
      else (s.prependLogs ev tx).reject .badLen (len.setWidth 8)) =
    (if len = 8#4 then (s.decodeFrame f).setResult 1#32 else s.reject .badLen (len.setWidth 8)).prependLogs ev tx := by
  split
  · rw [State.decodeFrame_prependLogs, State.setResult_prependLogs]
  · rw [State.reject_prependLogs]

theorem exec_attach_prependLogs (role : Role) :
    exec (.attach role) (s.prependLogs ev tx) = prependOutcomeLogs ev tx (exec (.attach role) s) := by
  cases ha : s.attached with
  | true =>
    rw [exec_attach_of_attached role ha, exec_attach_of_attached (s := s.prependLogs ev tx) role ha]
    exact congrArg Host.Outcome.next (State.reject_prependLogs ev tx s _ _)
  | false =>
    rw [exec_attach_of_unattached role ha, exec_attach_of_unattached (s := s.prependLogs ev tx) role ha]
    rfl

/-- A setter compares its operand with a register, and no register changes with the logs. -/
theorem exec_setter_prependLogs {i : Instr} (hi : Setter i) :
    exec i (s.prependLogs ev tx) = prependOutcomeLogs ev tx (exec i s) := by
  cases hw : i.wellFormed with
  | false =>
    rw [exec_of_not_wellFormed _ hw, exec_of_not_wellFormed _ hw]
    exact congrArg Host.Outcome.next (State.reject_prependLogs ev tx s _ _)
  | true =>
    cases ha : s.attached with
    | false =>
      rw [exec_setter_of_unattached hi hw ha, exec_setter_of_unattached (s := s.prependLogs ev tx) hi hw ha]
      exact congrArg Host.Outcome.next (State.reject_prependLogs ev tx s _ _)
    | true =>
      have ha' : (s.prependLogs ev tx).attached = true := ha
      rcases hi with ⟨on, rfl⟩ | ⟨code, rfl⟩ | ⟨code, rfl⟩ | ⟨celsius, rfl⟩
      · rw [exec_setPwr_of_attached on ha, exec_setPwr_of_attached on ha', State.prependLogs_onOff]
        split <;> rfl
      · rw [exec_setMode_of_attached hw ha, exec_setMode_of_attached hw ha', State.prependLogs_mode]
        split <;> rfl
      · rw [exec_setFan_of_attached hw ha, exec_setFan_of_attached hw ha', State.prependLogs_fan]
        split <;> rfl
      · rw [exec_setTemp_of_attached celsius ha, exec_setTemp_of_attached celsius ha', State.prependLogs_targetTemp]
        split <;> rfl

theorem exec_prependLogs (i : Instr) : exec i (s.prependLogs ev tx) = prependOutcomeLogs ev tx (exec i s) := by
  cases i with
  | attach role => exact exec_attach_prependLogs ev tx s role
  | poll => exact congrArg Host.Outcome.next (State.whenAttached_prependLogs ev tx s _ (State.poll_prependLogs ev tx s))
  | wait ms => exact congrArg Host.Outcome.next (State.whenAttached_prependLogs ev tx s _ rfl)
  | send => exact congrArg Host.Outcome.next (State.whenAttached_prependLogs ev tx s _ (State.sendIssue_prependLogs ev tx s))
  | decodeExt len f =>
    exact congrArg Host.Outcome.next (State.whenAttached_prependLogs ev tx s _ (State.decodeExt_prependLogs ev tx s len f))
  | setPwr on => exact exec_setter_prependLogs ev tx s (.inl ⟨on, rfl⟩)
  | setMode code => exact exec_setter_prependLogs ev tx s (.inr (.inl ⟨code, rfl⟩))
  | setFan code => exact exec_setter_prependLogs ev tx s (.inr (.inr (.inl ⟨code, rfl⟩)))
  | setTemp celsius => exact exec_setter_prependLogs ev tx s (.inr (.inr (.inr ⟨celsius, rfl⟩)))
  -- the accessors
  | _ => rfl

theorem State.acceptCommand_prependLogs (c : Command) :
    (s.prependLogs ev tx).acceptCommand c = prependOutcomeLogs ev tx (s.acceptCommand c) := by
  rcases hd : decode c with ⟨op⟩ | i
  · rw [State.acceptCommand_of_error hd, State.acceptCommand_of_error hd]
    simp [prependOutcomeLogs, State.prependLogs_eq]
  · rw [State.acceptCommand_of_ok hd, State.acceptCommand_of_ok hd, exec_prependLogs]

theorem State.coreTurn_prependLogs :
    (s.prependLogs ev tx).coreTurn = prependOutcomeLogs ev tx s.coreTurn := by
  cases ho : s.opState with
  | idle =>
    cases hp : s.port with
    | nil => rw [State.coreTurn_of_noCommand ho hp, State.coreTurn_of_noCommand (s := s.prependLogs ev tx) ho hp]; rfl
    | cons c rest =>
      rw [State.coreTurn_of_command ho hp, State.coreTurn_of_command (s := s.prependLogs ev tx) ho hp]
      exact State.acceptCommand_prependLogs ev tx { s with port := rest } c
  | waitRx =>
    rw [State.coreTurn_of_waitRx ho, State.coreTurn_of_waitRx (s := s.prependLogs ev tx) ho, State.waitBusy_prependLogs]
    rfl
  | waitTx =>
    rw [State.coreTurn_of_waitTx ho, State.coreTurn_of_waitTx (s := s.prependLogs ev tx) ho, State.sendBusy_prependLogs]
    rfl
  | unused =>
    rw [State.coreTurn_of_unused ho, State.coreTurn_of_unused (s := s.prependLogs ev tx) ho]
    rfl

theorem State.turn_prependLogs (t : Turn) :
    (s.prependLogs ev tx).turn t = prependOutcomeLogs ev tx (s.turn t) := by
  cases t with
  | core => exact State.coreTurn_prependLogs ev tx s
  | _ => rfl

/-- A step does what it would do with older records in front of the logs, and leaves them there. -/
theorem step_prependLogs : step (s.prependLogs ev tx) = prependOutcomeLogs ev tx (step s) := by
  cases ha : s.agenda with
  | nil =>
    rw [step_of_coreMoves (.inl ha), step_of_coreMoves (s := s.prependLogs ev tx) (.inl ha)]
    exact State.coreTurn_prependLogs ev tx s.afterTurn
  | cons t rest =>
    rw [step_of_agenda_cons ha, step_of_agenda_cons (s := s.prependLogs ev tx) ha]
    exact State.turn_prependLogs ev tx { s with agenda := rest } t

end

end Sys2Proof.Machine
end

section
/-!
PROOFS. The statement that the core never reads a log.
-/
namespace Sys2Proof.Machine

/-- Settles O51: the new records are those of the step on the state without logs. -/
theorem logsAreNeverRead : Obligations.LogsAreNeverRead := by
  intro s t h
  have hany : ∀ ev tx, step (s.withLogs ev tx) = prependOutcomeLogs ev tx (step (s.withLogs [] [])) := fun ev tx => by
    rw [State.withLogs_eq_prependLogs, step_prependLogs]
  have hs : step s = prependOutcomeLogs s.evLog s.txLog (step (s.withLogs [] [])) := hany s.evLog s.txLog
  rw [h] at hs
  cases hu : step (s.withLogs [] []) with
  | next u =>
    rw [hu] at hs
    cases hs
    exact ⟨u.evLog, u.txLog, rfl, rfl, fun ev tx => by rw [hany, hu]; rfl⟩
  | fault r => rw [hu] at hs; cases hs
  | refused r => rw [hu] at hs; cases hs

end Sys2Proof.Machine
end

section
/-!
SUPPORT. The transmit side: PENDING, TX_SLOT and the TX log under an instruction, a busy step and any step (42_scheduler.md R160,
R161, R166 to R168), and the end of a WAIT (40_synchronizer.md R109).
-/
namespace Sys2Proof.Machine

/-- The transmit side: PENDING, TX_SLOT and the TX log (R28, R29, R57). -/
def State.sender (s : State) : Bool × Frame × List TxItem := (s.pending, s.txSlot, s.txLog)

theorem State.sender_eq_iff {s t : State} :
    t.sender = s.sender ↔ t.pending = s.pending ∧ t.txSlot = s.txSlot ∧ t.txLog = s.txLog := by
  simp only [State.sender, Prod.mk.injEq]

/-- What a transmission leaves behind (R166 to R168): the slot and a flush on the wire, nothing pending, RESULT 1, IDLE. -/
structure State.Transmitted (s t : State) : Prop where
  txLog : t.txLog = s.txLog ++ s.txSlot.toList.map .byte ++ [.flush]
  pending : t.pending = false
  result : t.result = 1#32
  opState : t.opState = .idle

/-- When a SEND may transmit: in its issue step on an attached link with a frame pending and the minimum delay passed (R166), or
in its busy step with the remainder passed (R167). -/
def State.MayTransmit (s : State) : Prop :=
  (s.attached = true ∧ s.pending = true ∧ s.cfg.minTxDelayMs ≤ s.nowMs - s.lastRxMs) ∨
  (s.opState = .waitTx ∧ s.txWaitLenMs ≤ s.nowMs - s.txWaitStartMs)

/-- An instruction leaves the transmit side alone, or it is a SEND that transmits, or a setter that stages. -/
theorem exec_sender_cases {i : Instr} {s t : State} (h : exec i s = .next t) :
    t.sender = s.sender ∨
    (i = .send ∧ s.MayTransmit ∧ t = { s with
      txLog := s.txLog ++ s.txSlot.toList.map .byte ++ [.flush], pending := false, result := 1#32 }) ∨
    (Setter i ∧ s.attached = true ∧ ∃ onOff mode fan target, t = s.setAndStage onOff mode fan target) := by
  rcases exec_cases h with ⟨_, _, rfl⟩ | ⟨_, rfl⟩ | ⟨_, _, _, rfl⟩ | ⟨_, _, rfl⟩ | ⟨_, _, _, rfl⟩ | ⟨hi, ha, rfl⟩ |
    ⟨f, _, _, rfl⟩ | hsetter
  · exact .inl rfl
  · exact .inl rfl
  · exact .inl rfl
  · left; rw [State.poll_frame]; rfl
  · exact .inl rfl
  · rcases s.sendIssue_cases with ⟨_, e⟩ | ⟨hp, hd, e⟩ | ⟨_, _, e⟩
    · left; rw [e]; rfl
    · exact .inr (.inl ⟨hi, .inl ⟨ha, hp, hd⟩, e⟩)
    · left; rw [e]; rfl
  · left; rw [s.decodeFrame_eq f]; rfl
  · exact .inr (.inr hsetter)

theorem State.waitBusy_sender (s : State) : s.waitBusy.sender = s.sender := by
  rw [State.waitBusy_frame]; rfl

/-- A busy step of SEND that is not the last changes nothing (R167). -/
theorem State.sendBusy_sender_cases {s : State} (ho : s.opState = .waitTx) :
    s.sendBusy = s ∨ (s.MayTransmit ∧ s.Transmitted s.sendBusy) := by
  rcases s.sendBusy_cases with ⟨hd, e⟩ | ⟨_, e⟩
  · rw [e]; exact .inr ⟨.inr ⟨ho, hd⟩, rfl, rfl, rfl, rfl⟩
  · exact .inl e

/-- A step other than a reset leaves the transmit side alone, or transmits, or is a setter that stages. -/
theorem step_sender_cases {s t : State} (h : step s = .next t) (hr : s.agenda.head? ≠ some .resetAssert) :
    t.sender = s.sender ∨ (s.MayTransmit ∧ s.Transmitted t) ∨
    (∃ c rest i, s.port = c :: rest ∧ decode c = .ok i ∧ Setter i ∧ s.attached = true ∧
      ∃ onOff mode fan target, t = State.setAndStage { s.afterTurn with port := rest } onOff mode fan target) := by
  rcases step_cases h with ⟨_, h⟩ | ⟨_, _, rfl⟩ | ⟨_, _, rfl⟩ | ⟨_, _, rfl⟩ | ⟨hreset, _⟩
  · rcases State.coreTurn_cases h with ⟨_, _, rfl⟩ | ⟨c, rest, i, ho, hp, hd, he⟩ | ⟨_, _, _, _, _, _, rfl⟩ | ⟨_, rfl⟩ |
      ⟨ho, rfl⟩
    · exact .inl rfl
    · rcases exec_sender_cases (s := { s.afterTurn with port := rest }) he with hs | ⟨_, hmay, rfl⟩ | ⟨hi, ha, hstage⟩
      · exact .inl hs
      · exact .inr (.inl ⟨hmay, rfl, rfl, rfl, ho⟩)
      · exact .inr (.inr ⟨c, rest, i, hp, hd, hi, ha, hstage⟩)
    · exact .inl rfl
    · exact .inl s.afterTurn.waitBusy_sender
    · rcases State.sendBusy_sender_cases (s := s.afterTurn) ho with e | ⟨hmay, htx⟩
      · left; rw [e]; rfl
      · exact .inr (.inl ⟨hmay, htx.txLog, htx.pending, htx.result, htx.opState⟩)
  · exact .inl rfl
  · exact .inl rfl
  · exact .inl rfl
  · exact absurd hreset hr

/-- A step that changes the TX log transmits: no reset and no setter touches it (R240). -/
theorem transmitted_of_txLog_ne {s t : State} (h : step s = .next t) (hne : t.txLog ≠ s.txLog) :
    s.MayTransmit ∧ s.Transmitted t := by
  have hr : s.agenda.head? ≠ some .resetAssert := fun hr => by
    rw [step_of_head_resetAssert hr] at h
    cases h
    exact hne rfl
  rcases step_sender_cases h hr with hs | htx | ⟨_, _, _, _, _, _, _, _, _, _, _, rfl⟩
  · exact absurd (State.sender_eq_iff.mp hs).2.2 hne
  · exact htx
  · exact absurd rfl hne

/-- The wait invariant turns a waiting SEND's remainder into the delay since the last accepted frame (R166, R169). -/
theorem State.OpInv.of_mayTransmit {s : State} (hinv : s.OpInv) (h : s.MayTransmit) :
    s.pending = true ∧ s.attached = true ∧
    (s.cfg.minTxDelayMs ≤ s.nowMs - s.lastRxMs ∨
      s.opState = .waitTx ∧ s.txWaitStartMs - s.lastRxMs < s.cfg.minTxDelayMs ∧
      s.cfg.minTxDelayMs - (s.txWaitStartMs - s.lastRxMs) ≤ s.nowMs - s.txWaitStartMs) := by
  rcases h with ⟨ha, hp, hd⟩ | ⟨ho, hd⟩
  · exact ⟨hp, ha, .inl hd⟩
  · obtain ⟨_, hattached, hwait⟩ := hinv
    obtain ⟨hp, hstart, hlen⟩ := hwait ho
    exact ⟨hp, hattached (by simp [ho]), .inr ⟨ho, hstart, hlen ▸ hd⟩⟩

/-- An accepted frame is stamped with the clock of its step (R103). -/
theorem State.syncByte_lastRxMs_of_accepted {b : Byte} {s : State} (h : (s.syncByte b).2 = true) :
    (s.syncByte b).1.lastRxMs = s.nowMs := by
  -- only the end marker's case answers true, and it writes the timestamp
  rcases s.syncByte_cases b with ⟨_, _, e⟩ | ⟨_, _, e⟩ | ⟨_, _, e⟩ | ⟨_, _, _, e⟩ | ⟨_, _, _, e⟩ | ⟨_, _, _, e⟩ <;>
    rw [e] at h ⊢ <;> cases h

/-- The loop that stops at an accepted frame stops with the timestamp of this step (R103). -/
theorem State.consume_lastRxMs_of_accepted {q : List Byte} {s : State} (h : (s.consume false false q).2 = true) :
    (s.consume false false q).1.lastRxMs = s.nowMs := by
  induction q generalizing s with
  | nil => cases h
  | cons b rest ih =>
    cases hb : (s.syncByte b).2 with
    | false =>
      have hloop : s.consume false false (b :: rest) = (s.syncByte b).1.consume false false rest := by
        rw [State.consume_cons, hb]; rfl
      rw [hloop] at h ⊢
      rw [ih h, State.syncByte_nowMs]
    | true =>
      rw [State.consume_cons, hb]
      exact State.syncByte_lastRxMs_of_accepted hb

/-- At the timeout or later a busy step of WAIT ends it (R109). -/
theorem State.waitBusy_of_elapsed {s : State} (hd : s.waitTimeoutMs ≤ s.nowMs - s.waitStartMs) :
    s.waitBusy.opState = .idle ∧
    (s.waitBusy.result = 0#32 ∨ s.waitBusy.result = 1#32 ∧ s.waitBusy.lastRxMs = s.nowMs) := by
  rcases s.waitBusy_cases with ⟨hr, e⟩ | ⟨_, _, e⟩ | ⟨_, hlt, _⟩
  · rw [e]; exact ⟨rfl, .inr ⟨rfl, State.consume_lastRxMs_of_accepted hr⟩⟩
  · rw [e]; exact ⟨rfl, .inl rfl⟩
  · exact absurd hd (BitVec.not_le.mpr hlt)

end Sys2Proof.Machine
end

section
/-!
PROOFS. The statements about staging, transmission and the end of the waits.
-/
namespace Sys2Proof.Machine

/-- Settles O38: on an attached link a setter with a new, legal value stages, and staging reads neither the slot nor PENDING. -/
theorem lastSetterWins : Obligations.LastSetterWins := by
  intro s slot p i t hi ha h
  have ha' : State.attached { s with txSlot := slot, pending := p } = true := ha
  rcases hi with ⟨on, rfl, hne⟩ | ⟨code, rfl, hne, hw⟩ | ⟨code, rfl, hne, hw⟩ | ⟨celsius, rfl, hne⟩
  · rw [exec_setPwr_of_attached on ha, if_neg hne] at h
    cases h
    rw [exec_setPwr_of_attached on ha', if_neg hne]
    exact ⟨rfl, rfl, rfl⟩
  · rw [exec_setMode_of_attached hw ha, if_neg hne] at h
    cases h
    rw [exec_setMode_of_attached hw ha', if_neg hne]
    exact ⟨rfl, rfl, rfl⟩
  · rw [exec_setFan_of_attached hw ha, if_neg hne] at h
    cases h
    rw [exec_setFan_of_attached hw ha', if_neg hne]
    exact ⟨rfl, rfl, rfl⟩
  · rw [exec_setTemp_of_attached celsius ha, if_neg hne] at h
    cases h
    rw [exec_setTemp_of_attached celsius ha', if_neg hne]
    exact ⟨rfl, rfl, rfl⟩

/-- Settles O39: only SEND and the setters touch the transmit side, and the busy step of WAIT has its frame. -/
theorem receptionNeverTouchesTheSlot : Obligations.ReceptionNeverTouchesTheSlot := by
  refine ⟨fun s t i hi h => State.sender_eq_iff.mp ?exec, State.waitBusy_frame⟩
  case exec =>
    rcases exec_sender_cases h with hs | ⟨rfl, _⟩ | ⟨hsetter, _⟩
    · exact hs
    · simp at hi
    · rcases hsetter with ⟨_, rfl⟩ | ⟨_, rfl⟩ | ⟨_, rfl⟩ | ⟨_, rfl⟩ <;> simp at hi

/-- Settles O40: a change of the TX log is a transmission, and the wait invariant says what a waiting SEND has waited for. -/
theorem transmissionOnlyAfterTheDelay : Obligations.TransmissionOnlyAfterTheDelay := by
  intro s t hinv h hne
  obtain ⟨hmay, htx⟩ := transmitted_of_txLog_ne h hne
  obtain ⟨hp, ha, hdelay⟩ := hinv.of_mayTransmit hmay
  exact ⟨htx.txLog, hp, htx.pending, ha, htx.result, htx.opState, hdelay⟩

/-- Settles O49: of the three things a step can do to the transmit side, one clears PENDING and one sets it. -/
theorem pendingChangesOnlyByStageAndTransmit : Obligations.PendingChangesOnlyByStageAndTransmit := by
  intro s t h hr
  rcases step_sender_cases h hr with hs | ⟨_, htx⟩ | ⟨c, rest, i, hp, hd, hi, _, _, _, _, _, rfl⟩
  · obtain ⟨hpending, _, _⟩ := State.sender_eq_iff.mp hs
    exact ⟨fun h1 h0 => by simp [hpending, h1] at h0, fun h0 h1 => by simp [hpending, h0] at h1⟩
  · exact ⟨fun _ _ => htx.txLog, fun _ h1 => by simp [htx.pending] at h1⟩
  · exact ⟨fun _ h0 => (by cases h0), fun _ _ => ⟨rfl, c, rest, i, hp, hd, hi⟩⟩

/-- Settles O41: each wait's busy step, once its time has passed. -/
theorem waitsEndByTheClock : Obligations.WaitsEndByTheClock := by
  intro s hm
  rw [step_of_coreMoves hm]
  refine ⟨fun ho hd => ⟨_, State.coreTurn_of_waitRx (s := s.afterTurn) ho, State.waitBusy_of_elapsed hd⟩,
    fun ho hd => ⟨_, State.coreTurn_of_waitTx (s := s.afterTurn) ho, ?send⟩⟩
  case send =>
    rw [State.sendBusy_of_elapsed (s := s.afterTurn) hd]
    exact ⟨rfl, rfl, rfl⟩

end Sys2Proof.Machine
end

section
/-!
SUPPORT. What the receive loop keeps of the candidate and does to CURRENT_TEMP, and the two steps that receive (40_synchronizer.md
R100 to R109, 41_codec.md R135).
-/
namespace Sys2Proof.Machine

/-- The invariant of the synchronizer depends on its registers and the configuration alone. -/
theorem State.SyncInv.of_receiver_eq {s t : State} (h : s.SyncInv) (hr : t.receiver = s.receiver) (hcfg : t.cfg = s.cfg) :
    t.SyncInv := by
  obtain ⟨hstate, hcount, hbuf⟩ := State.candidate_of_receiver_eq hr
  simpa only [State.SyncInv, hstate, hcount, hbuf, hcfg] using h

theorem State.syncInv_of_scanning {s : State} (h : s.syncState = .scanning) (hc : s.rxCount = 0#4) : s.SyncInv :=
  ⟨fun _ => hc, fun g => by simp [h] at g⟩

theorem State.SyncInv.syncByte {s : State} (h : s.SyncInv) (b : Byte) : (s.syncByte b).1.SyncInv := by
  rcases s.syncByte_cases b with ⟨_, hb, e⟩ | ⟨_, _, e⟩ | ⟨_, _, e⟩ | ⟨hs, h1, h6, e⟩ | ⟨_, _, _, e⟩ | ⟨_, _, _, e⟩ <;> rw [e]
  · exact ⟨nofun, fun _ => ⟨show 1 ≤ (1#4).toNat by decide, show (1#4).toNat ≤ 7 by decide, by simpa using hb⟩⟩
  · exact h
  · exact State.syncInv_of_scanning rfl rfl
  · have hcount : (s.rxCount + 1#4).toNat = s.rxCount.toNat + 1 := rxCount_succ (by omega)
    obtain ⟨_, _, hmarker⟩ := h.2 hs
    refine ⟨fun g => by simp [State.appendByte, hs] at g, fun _ => ⟨?_, ?_, ?_⟩⟩
    · simp only [State.appendByte, hcount]; omega
    · simp only [State.appendByte, hcount]; omega
    · simpa [State.appendByte, setIfInBounds_eq_set s.rxBuf _ b (show s.rxCount.toNat < 8 by omega),
        Vector.getElem_set, show s.rxCount.toNat ≠ 0 by omega] using hmarker
  · exact State.syncInv_of_scanning rfl rfl
  · exact State.syncInv_of_scanning rfl rfl

theorem State.SyncInv.receive {s : State} (h : s.SyncInv) (drain : Bool) : (s.receive drain).1.SyncInv :=
  State.consume_induction (fun _ _ h => h) (fun _ b h => h.syncByte b) drain false s.rxq s h

/-- The busy step of WAIT writes, beside what its loop does, only RESULT, OP_STATE and an event. -/
theorem State.waitBusy_eq_receive (s : State) : ∃ v op ev,
    s.waitBusy = { (s.receive false).1 with result := v, opState := op, evLog := ev } := by
  rcases s.waitBusy_cases with ⟨_, e⟩ | ⟨_, _, e⟩ | ⟨_, _, e⟩ <;> exact ⟨_, _, _, e⟩

theorem State.SyncInv.waitBusy {s : State} (h : s.SyncInv) : s.waitBusy.SyncInv := by
  obtain ⟨_, _, _, e⟩ := s.waitBusy_eq_receive
  rw [e]
  exact h.receive false

theorem State.SyncInv.exec_poll {s t : State} (h : s.SyncInv) (he : exec .poll s = .next t) : t.SyncInv := by
  cases ha : s.attached with
  | true => rw [exec_poll_of_attached ha] at he; cases he; exact h.receive s.cfg.pollDrain
  | false => rw [exec_poll_of_unattached ha] at he; cases he; exact h

/-- `v` is what Decode makes of the room temperature of `f`, present and in range (R135). -/
def IsRoomOf (cfg : Config) (f : Frame) (v : Byte) : Prop :=
  f[6] &&& 0x01#8 = 0x01#8 ∧ ((f[6] &&& 0x7E#8) >>> 1).toNat ≤ cfg.roomRawMax.toNat ∧
    v = ((f[6] &&& 0x7E#8) >>> 1) + cfg.roomTempOffset

theorem decodedRoom_cases (cfg : Config) (f : Frame) (old : Byte) :
    decodedRoom cfg f old = old ∨ IsRoomOf cfg f (decodedRoom cfg f old) := by
  simp only [decodedRoom, inPresent_iff_mask, inRoomRaw_eq_mask, BitVec.le_def]
  split
  next hvalid => exact .inr ⟨hvalid.1, hvalid.2, rfl⟩
  next => exact .inl rfl

/-- Under the documented room parameters a decoded value is at most 50 (R12, R135). -/
theorem IsRoomOf.toNat_le {cfg : Config} {f : Frame} {v : Byte} (h : IsRoomOf cfg f v) (hmax : cfg.roomRawMax = 50#8)
    (hoffset : cfg.roomTempOffset = 0#8) : v.toNat ≤ 50 := by
  obtain ⟨_, hle, rfl⟩ := h
  rw [hoffset, BitVec.add_zero]
  simpa [hmax] using hle

/-- The bytes a receive loop can see: those of RX_BUF up to RX_COUNT, then RXQ. -/
def State.incoming (s : State) : List Byte := s.rxBuf.toList.take s.rxCount.toNat ++ s.rxq

theorem State.candidate_append_rxq (s : State) : s.candidate ++ s.rxq <:+ s.incoming := by
  unfold State.candidate State.incoming
  split
  · exact List.suffix_append _ _
  · exact List.suffix_rfl

/-- A receive loop begun in `s₀`, in the state `u` with `q` still to come: what is left ends the bytes there were, and CURRENT_TEMP
is the one before or that of a frame among those bytes. -/
def State.Receiving (s₀ : State) (q : List Byte) (u : State) : Prop :=
  u.cfg = s₀.cfg ∧ u.candidate ++ q <:+ s₀.incoming ∧
    (u.currentTemp = s₀.currentTemp ∨
      ∃ f : Frame, IsRoomOf s₀.cfg f u.currentTemp ∧ f[7] = s₀.cfg.endMarker ∧ f.toList <:+: s₀.incoming)

theorem State.Receiving.syncByte {s₀ u : State} {b : Byte} {rest : List Byte} (h : s₀.Receiving (b :: rest) u) :
    s₀.Receiving rest (u.syncByte b).1 := by
  obtain ⟨hcfg, hleft, htemp⟩ := h
  have hsplit : u.candidate ++ b :: rest = (u.candidate ++ [b]) ++ rest := by simp
  rw [hsplit] at hleft
  obtain ⟨hcandidate, hdecode⟩ := u.syncByte_candidate b
  refine ⟨(u.syncByte_cfg b).trans hcfg, ?left, ?temp⟩
  case left =>
    obtain ⟨dropped, hd⟩ := hcandidate
    exact List.IsSuffix.trans ⟨dropped, by rw [← List.append_assoc, hd]⟩ hleft
  case temp =>
    rcases hdecode with ⟨_, hkeep⟩ | ⟨f, hf, hend, _, hnew⟩
    · rw [hkeep]; exact htemp
    · rw [hnew, hcfg]
      rcases decodedRoom_cases s₀.cfg f u.currentTemp with hold | hroom
      · rw [hold]; exact htemp
      · refine .inr ⟨f, hroom, hend.trans (congrArg Config.endMarker hcfg), ?_⟩
        rw [hf]
        exact (List.prefix_append _ rest).isInfix.trans hleft.isInfix

/-- The receive loop changes CURRENT_TEMP only to that of a frame among the bytes it sees (R111, R135). -/
theorem State.receive_currentTemp_cases (drain : Bool) (s : State) :
    (s.receive drain).1.currentTemp = s.currentTemp ∨
      ∃ f : Frame, IsRoomOf s.cfg f (s.receive drain).1.currentTemp ∧ f[7] = s.cfg.endMarker ∧
        f.toList <:+: s.incoming := by
  obtain ⟨_, _, _, h⟩ := State.consume_induction_queue (P := s.Receiving) (fun _ _ _ h => h)
    (fun _ _ _ h => h.syncByte) drain false s.rxq s ⟨rfl, s.candidate_append_rxq, .inl rfl⟩
  exact h

/-- An instruction changes CURRENT_TEMP only as a POLL or a DECODE_EXT of length 8. -/
theorem exec_currentTemp_cases {i : Instr} {s t : State} (h : exec i s = .next t) :
    t.currentTemp = s.currentTemp ∨
    (i = .poll ∧ t.currentTemp = (s.receive s.cfg.pollDrain).1.currentTemp) ∨
    (∃ f, i = .decodeExt 8#4 f ∧ t.currentTemp = decodedRoom s.cfg f s.currentTemp) := by
  rcases exec_cases h with ⟨_, _, rfl⟩ | ⟨_, rfl⟩ | ⟨_, _, _, rfl⟩ | ⟨hi, _, rfl⟩ | ⟨_, _, _, rfl⟩ | ⟨_, _, rfl⟩ |
    ⟨f, hi, _, rfl⟩ | ⟨_, _, _, _, _, _, rfl⟩
  · exact .inl rfl
  · exact .inl rfl
  · exact .inl rfl
  · exact .inr (.inl ⟨hi, rfl⟩)
  · exact .inl rfl
  · left; rcases s.sendIssue_cases with ⟨_, e⟩ | ⟨_, _, e⟩ | ⟨_, _, e⟩ <;> rw [e]
  · exact .inr (.inr ⟨f, hi, by rw [s.decodeFrame_eq f]⟩)
  · exact .inl rfl

/-- A step that changes CURRENT_TEMP is a reset, a receive loop of WAIT or POLL, or a DECODE_EXT of length 8. -/
theorem step_currentTemp_cases {s t : State} (h : step s = .next t) :
    t.currentTemp = s.currentTemp ∨
    (s.agenda.head? = some .resetAssert ∧ t.currentTemp = s.cfg.currentTempInit) ∨
    (s.coreMoves ∧ (s.opState = .waitRx ∨ s.opState = .idle ∧ ∃ c rest, s.port = c :: rest ∧ decode c = .ok .poll) ∧
      ∃ f : Frame, IsRoomOf s.cfg f t.currentTemp ∧ f[7] = s.cfg.endMarker ∧ f.toList <:+: s.incoming) ∨
    (s.coreMoves ∧ ∃ f, IsRoomOf s.cfg f t.currentTemp ∧
      s.opState = .idle ∧ ∃ c rest, s.port = c :: rest ∧ decode c = .ok (.decodeExt 8#4 f)) := by
  rcases step_cases h with ⟨hm, h⟩ | ⟨_, _, rfl⟩ | ⟨_, _, rfl⟩ | ⟨_, _, rfl⟩ | ⟨hreset, rfl⟩
  · rcases State.coreTurn_cases h with ⟨_, _, rfl⟩ | ⟨c, rest, i, ho, hp, hd, he⟩ | ⟨_, _, _, _, _, _, rfl⟩ | ⟨ho, rfl⟩ |
      ⟨_, rfl⟩
    · exact .inl rfl
    · rcases exec_currentTemp_cases he with hkeep | ⟨rfl, hnew⟩ | ⟨f, rfl, hnew⟩
      · exact .inl hkeep
      · rw [hnew]
        rcases State.receive_currentTemp_cases s.cfg.pollDrain { s.afterTurn with port := rest } with hkeep | hroom
        · exact .inl hkeep
        · exact .inr (.inr (.inl ⟨hm, .inr ⟨ho, c, rest, hp, hd⟩, hroom⟩))
      · rw [hnew]
        rcases decodedRoom_cases s.cfg f s.currentTemp with hkeep | hroom
        · exact .inl hkeep
        · exact .inr (.inr (.inr ⟨hm, f, hroom, ho, c, rest, hp, hd⟩))
    · exact .inl rfl
    · obtain ⟨_, _, _, e⟩ := s.afterTurn.waitBusy_eq_receive
      rw [e]
      rcases s.afterTurn.receive_currentTemp_cases false with hkeep | hroom
      · exact .inl hkeep
      · exact .inr (.inr (.inl ⟨hm, .inl ho, hroom⟩))
    · left; rcases s.afterTurn.sendBusy_cases with ⟨_, e⟩ | ⟨_, e⟩ <;> rw [e] <;> rfl
  · exact .inl rfl
  · exact .inl rfl
  · exact .inl rfl
  · exact .inr (.inl ⟨hreset, rfl⟩)

end Sys2Proof.Machine
end

section
/-!
SUPPORT. The invariants of 10_state.md R40, 41_codec.md R143 and 70_reset_and_hazards.md R242: what each needs, over an instruction
and over a step.
-/
namespace Sys2Proof.Machine

theorem State.opInv_of_idle {s : State} (h : s.opState = .idle) : s.OpInv :=
  ⟨by simp [h], fun g => absurd h g, fun g => by simp [h] at g⟩

/-- In WAIT_RX the invariant asks only for an attached link. -/
theorem State.opInv_of_waitRx {s : State} (h : s.opState = .waitRx) (ha : s.attached = true) : s.OpInv :=
  ⟨by simp [h], fun _ => ha, fun g => by simp [h] at g⟩

/-- The latches of a SEND that waits hold the remainder of the delay (R166). -/
theorem exec_opInv {i : Instr} {s t : State} (ho : s.opState = .idle) (h : exec i s = .next t) : t.OpInv := by
  rcases exec_opState_cases ho h with ht | ⟨_, _, ha, rfl⟩ | ⟨_, ha, hp, hd, rfl⟩
  · exact State.opInv_of_idle ht
  · exact State.opInv_of_waitRx rfl ha
  · exact ⟨by simp, fun _ => ha, fun _ => ⟨hp, hd, rfl⟩⟩

theorem State.waitBusy_opInv {s : State} (ho : s.opState = .waitRx) (h : s.OpInv) : s.waitBusy.OpInv := by
  obtain ⟨_, hbusy, _⟩ := h
  have hattached : s.waitBusy.attached = true :=
    (State.binding_eq_iff.mp s.waitBusy_binding).1.trans (hbusy (by simp [ho]))
  have hloop : (s.receive false).1.opState = .waitRx := by rw [(s.receive_frame false).1]; exact ho
  rcases s.waitBusy_cases with ⟨_, e⟩ | ⟨_, _, e⟩ | ⟨_, _, e⟩
  · exact State.opInv_of_idle (by rw [e])
  · exact State.opInv_of_idle (by rw [e])
  · exact State.opInv_of_waitRx (by rw [e, hloop]) hattached

theorem State.OpInv.sendBusy {s : State} (h : s.OpInv) : s.sendBusy.OpInv := by
  rcases s.sendBusy_cases with ⟨_, e⟩ | ⟨_, e⟩ <;> rw [e]
  · exact State.opInv_of_idle rfl
  · exact h

/-- An outbound frame starts with the marker and ends with its checksum (R140, R142, R143). -/
theorem outboundFrame_framing (cfg : Config) (role : Role) (onOff : BitVec 1) (mode fan : BitVec 3) (target : Byte) :
    let f := outboundFrame cfg role onOff mode fan target
    f[0] = cfg.syncMarker ∧ f[6] = 0x00#8 ∧ f[7] = checksum (leadingBytes f) := ⟨rfl, rfl, rfl⟩

theorem State.StagedInv.framing {s : State} (h : s.StagedInv) (hp : s.pending = true) :
    s.txSlot[0] = s.cfg.syncMarker ∧ s.txSlot[6] = 0x00#8 ∧ s.txSlot[7] = checksum (leadingBytes s.txSlot) := by
  obtain ⟨_, onOff, mode, fan, target, hslot⟩ := h hp
  rw [hslot]
  exact outboundFrame_framing s.cfg s.role onOff mode fan target

/-- A frame stays staged with the role it was encoded for: a pending frame has an attached link, whose binding no step but a reset
changes. -/
theorem step_stagedInv {s t : State} (hinv : s.StagedInv) (h : step s = .next t) : t.StagedInv := by
  intro hp
  have hr : s.agenda.head? ≠ some .resetAssert := fun hr => by
    rw [step_of_head_resetAssert hr] at h
    cases h
    cases hp
  rcases step_sender_cases h hr with hs | ⟨_, htx⟩ | ⟨_, _, _, _, _, _, ha, onOff, mode, fan, target, rfl⟩
  · obtain ⟨hpending, hslot, _⟩ := State.sender_eq_iff.mp hs
    obtain ⟨ha, onOff, mode, fan, target, hframe⟩ := hinv (hpending ▸ hp)
    rcases step_binding_cases h hr with hb | ⟨hfalse, _⟩
    · obtain ⟨hattached, hrole⟩ := State.binding_eq_iff.mp hb
      exact ⟨hattached.trans ha, onOff, mode, fan, target, by rw [hslot, hframe, step_cfg h, hrole]⟩
    · simp [ha] at hfalse
  · simp [htx.pending] at hp
  · exact ⟨ha, onOff, mode, fan, target, rfl⟩

/-- On an unattached link an instruction that leaves it unattached writes RESULT and the event log alone (R194). -/
theorem exec_unattached_cases {i : Instr} {s t : State} (h : exec i s = .next t) (ht : t.attached = false) :
    s.attached = false ∧ ∃ v ev, t = { s with result := v, evLog := ev } := by
  have hs : s.attached = false := by
    rcases exec_binding_cases h with hb | ⟨hs, _⟩
    · rw [← ht, (State.binding_eq_iff.mp hb).1]
    · exact hs
  refine ⟨hs, ?_⟩
  rcases exec_cases h with ⟨_, _, e⟩ | ⟨_, e⟩ | ⟨_, _, _, rfl⟩ | ⟨_, ha, _⟩ | ⟨_, _, ha, _⟩ | ⟨_, ha, _⟩ | ⟨_, _, ha, _⟩ |
    ⟨_, ha, _⟩
  · exact ⟨_, _, e⟩
  · exact ⟨_, _, e⟩
  · cases ht
  all_goals simp [hs] at ha

/-- The fields that the reset leaves alone, and RESULT, are free on an unattached machine (R242). -/
theorem State.UnattachedInv.update {s : State} (h : s.UnattachedInv) (port : List Command) (agenda : List Turn) (rxq : List Byte)
    (nowMs : Ms) (result : Word) (evLog : List Event) :
    State.UnattachedInv { s with
      port := port, agenda := agenda, rxq := rxq, nowMs := nowMs, result := result, evLog := evLog } := fun ha =>
  congrArg (fun u : State => { u with
    port := port, agenda := agenda, rxq := rxq, nowMs := nowMs, result := result, evLog := evLog }) (h ha)

/-- An unattached machine is idle, so no busy step is its own. -/
theorem State.UnattachedInv.attached_of_busy {s : State} (h : s.UnattachedInv) (ho : s.opState ≠ .idle) : s.attached = true := by
  by_contra ha
  exact ho (congrArg State.opState (h (Bool.eq_false_iff.mpr ha)))

theorem State.unattachedInv_of_attached {s : State} (h : s.attached = true) : s.UnattachedInv := fun ha => by
  simp [h] at ha

end Sys2Proof.Machine
end

section
/-!
PROOFS. Every step keeps each invariant; the launches meet them all; so every run is safe.
-/
namespace Sys2Proof.Machine

/-- Settles O55: only a reset, a POLL and a busy step of WAIT write the synchronizer's registers, and the byte step keeps the
invariant. -/
theorem stepKeepsSyncInvariant : Obligations.StepKeepsSyncInvariant := by
  intro s t hinv h
  by_cases hr : s.agenda.head? = some .resetAssert
  · rw [step_of_head_resetAssert hr] at h
    cases h
    exact State.syncInv_of_scanning rfl rfl
  · rcases step_receiver_cases h hr with ⟨hs, _⟩ | ⟨_, _, rfl⟩ | ⟨_, _, _, rest, _, _, he⟩
    · exact hinv.of_receiver_eq hs (step_cfg h)
    · exact State.SyncInv.waitBusy (s := s.afterTurn) hinv
    · exact State.SyncInv.exec_poll (s := { s.afterTurn with port := rest }) hinv he

/-- Settles O56: a command starts in IDLE and latches what the invariant says; the busy steps keep it or end in IDLE. -/
theorem stepKeepsWaitInvariant : Obligations.StepKeepsWaitInvariant := fun _ _ hinv h =>
  step_induction (P := State.OpInv) hinv
    (hPort := fun _ _ h => h) (hAgenda := fun _ _ h => h) (hRx := fun _ _ h => h) (hClock := fun _ _ h => h)
    (hReset := fun _ _ => State.opInv_of_idle rfl)
    (hUnassigned := fun _ _ h => h)
    (hExec := fun _ _ _ ho _ he => exec_opInv ho he)
    (hWait := fun _ ho h => State.waitBusy_opInv ho h)
    (hSend := fun _ _ h => h.sendBusy) h

/-- Settles O57: the invariant over the step, and the last byte of any outbound frame. -/
theorem stepKeepsStagedFrame : Obligations.StepKeepsStagedFrame := fun _ _ hinv h =>
  have hstaged := step_stagedInv hinv h
  ⟨hstaged, fun hp => (hstaged.framing hp).2.2⟩

/-- Settles O58: until an ATTACH only fields that a reset leaves alone change, and RESULT. -/
theorem stepKeepsUnattachedDefaults : Obligations.StepKeepsUnattachedDefaults := fun _ _ hinv h =>
  step_induction (P := State.UnattachedInv) hinv
    (hPort := fun s p h => h.update p s.agenda s.rxq s.nowMs s.result s.evLog)
    (hAgenda := fun s a h => h.update s.port a s.rxq s.nowMs s.result s.evLog)
    (hRx := fun s q h => h.update s.port s.agenda q s.nowMs s.result s.evLog)
    (hClock := fun s n h => h.update s.port s.agenda s.rxq n s.result s.evLog)
    (hReset := fun _ _ _ => rfl)
    (hUnassigned := fun s _ h => h.update s.port s.agenda s.rxq s.nowMs _ _)
    (hExec := fun _ s _ _ h he ht => by
      obtain ⟨_, v, ev, rfl⟩ := exec_unattached_cases he ht
      exact h.update s.port s.agenda s.rxq s.nowMs v ev ht)
    (hWait := fun s ho h => State.unattachedInv_of_attached
      ((State.binding_eq_iff.mp s.waitBusy_binding).1.trans (h.attached_of_busy (by simp [ho]))))
    (hSend := fun s ho h => State.unattachedInv_of_attached
      ((State.binding_eq_iff.mp s.sendBusy_binding).1.trans (h.attached_of_busy (by simp [ho])))) h

/-- Settles O59: the TX log grows by the staged frame's block alone. -/
theorem stepKeepsWireFraming : Obligations.StepKeepsWireFraming := by
  intro s t hop hstaged ⟨frames, hlog, hframes⟩ h
  by_cases hne : t.txLog = s.txLog
  · exact ⟨frames, hne.trans hlog, by rw [step_cfg h]; exact hframes⟩
  · obtain ⟨hmay, htx⟩ := transmitted_of_txLog_ne h hne
    obtain ⟨hp, _, _⟩ := hop.of_mayTransmit hmay
    refine ⟨frames ++ [s.txSlot], ?log, ?framing⟩
    case log => simp [htx.txLog, hlog, txBlock]
    case framing =>
      rw [step_cfg h, List.forall_mem_append, List.forall_mem_singleton]
      exact ⟨hframes, hstaged.framing hp⟩

/-- A machine at its reset values with nothing on the wire meets every invariant. -/
theorem State.applyReset_inv {s : State} (h : s.txLog = []) : s.applyReset.Inv :=
  ⟨State.syncInv_of_scanning rfl rfl, State.opInv_of_idle rfl, nofun, fun _ => rfl, [], h, nofun⟩

/-- Settles O54: a launch is a reset with an empty TX log, and the state after reset is one. -/
theorem launchMeetsTheInvariants : Obligations.LaunchMeetsTheInvariants := by
  have hlaunch : ∀ cfg rxq nowMs port agenda, (State.launch cfg rxq nowMs port agenda).Inv :=
    fun _ _ _ _ _ => State.applyReset_inv rfl
  exact ⟨hlaunch Config.documented [] 0#32 [] [], hlaunch, rfl⟩

theorem State.Inv.step {s t : State} (hinv : s.Inv) (h : step s = .next t) : t.Inv := by
  obtain ⟨hsync, hop, hstaged, hunattached, hwire⟩ := hinv
  exact ⟨stepKeepsSyncInvariant s t hsync h, stepKeepsWaitInvariant s t hop h, step_stagedInv hstaged h,
    stepKeepsUnattachedDefaults s t hunattached h, stepKeepsWireFraming s t hop hstaged hwire h⟩

/-- The turn taken leaves the agenda, and no turn joins it. -/
theorem State.OneHost.step {s t : State} (hone : s.OneHost) (h : step s = .next t) : t.OneHost := by
  rw [State.OneHost, (step_keeps h).2.1]
  exact fun hmem => hone (List.mem_of_mem_tail hmem)

/-- With one host a state that meets the invariants has a next state. -/
theorem State.Inv.exists_step {s : State} (hinv : s.Inv) (hone : s.OneHost) : ∃ t, Machine.step s = .next t := by
  obtain ⟨_, ⟨hused, _⟩, _⟩ := hinv
  exact noConditionIsFatal.2 s hused fun hhead => hone (List.mem_of_mem_head? hhead)

theorem core_run_succ {s t : State} (h : step s = .next t) (n : Nat) : core.run (n + 1) s = core.run n t := by
  have hfirst : core.step s = .next t := h
  simp only [Host.Core.run, hfirst]

theorem State.Inv.safeFor {s : State} (hinv : s.Inv) (hone : s.OneHost) (n : Nat) : s.safeFor n := by
  induction n generalizing s with
  | zero => exact ⟨s, rfl, hinv⟩
  | succ n ih =>
    obtain ⟨t, h⟩ := hinv.exists_step hone
    obtain ⟨u, hrun, hu⟩ := ih (hinv.step h) (hone.step h)
    exact ⟨u, (core_run_succ h n).trans hrun, hu⟩

/-- Settles O60: a launch meets the invariants, and a state that meets them steps to one that does. -/
theorem everyRunIsSafe : Obligations.EveryRunIsSafe := fun cfg rxq nowMs port agenda n hone =>
  State.Inv.safeFor (launchMeetsTheInvariants.2.1 cfg rxq nowMs port agenda) hone n

/-- Settles O50: by what a step can do to CURRENT_TEMP, the frame being among the bytes received or DECODE_EXT's operand. -/
theorem currentTempComesFromDecodeOnly : Obligations.CurrentTempComesFromDecodeOnly := by
  intro s t h hne
  rcases step_currentTemp_cases h with hkeep | hreset | ⟨hm, hreceives, f, hroom, hend, hbytes⟩ |
    ⟨hm, f, hroom, hext⟩
  · exact absurd hkeep hne
  · exact .inl hreset
  · have hbound := hroom.toNat_le
    obtain ⟨hpresent, hraw, hvalue⟩ := hroom
    exact .inr ⟨hm, hbound, f, hpresent, hraw, hvalue, .inr ⟨hreceives, hend, hbytes⟩⟩
  · have hbound := hroom.toNat_le
    obtain ⟨hpresent, hraw, hvalue⟩ := hroom
    exact .inr ⟨hm, hbound, f, hpresent, hraw, hvalue, .inl hext⟩

end Sys2Proof.Machine
end

section
/-!
SUPPORT. The scan of R111 by its first item, and one item's part of the draining receive loop; then a whole frame read from SCANNING.
-/
namespace Sys2Proof.Machine

section
variable {sync endm : Byte}

theorem scan_candidate (b1 b2 b3 b4 b5 b6 b7 : Byte) (rest : List Byte) :
    scan sync endm (sync :: b1 :: b2 :: b3 :: b4 :: b5 :: b6 :: b7 :: rest) =
      (if b7 = endm then .accepted #v[sync, b1, b2, b3, b4, b5, b6, b7]
        else .failed #v[sync, b1, b2, b3, b4, b5, b6, b7]) :: scan sync endm rest := by
  rw [scan, if_pos rfl]

theorem scan_discard {b : Byte} (hb : b ≠ sync) (rest : List Byte) :
    scan sync endm (b :: rest) = .discarded b :: scan sync endm rest := by
  rw [scan.eq_def]
  split
  next heq =>
    cases heq
    rw [if_neg hb]
  next heq =>
    cases heq
    rw [if_neg hb]
  next heq => cases heq

/-- Fewer than seven bytes after the marker make a partial candidate. -/
theorem scan_held {rest : List Byte} (hl : rest.length ≤ 6) : scan sync endm (sync :: rest) = [.held (sync :: rest)] := by
  rw [scan.eq_2, if_pos rfl]
  rintro b1 b2 b3 b4 b5 b6 b7 more rfl
  simp only [List.length_cons] at hl
  omega

/-- Bytes that are not seven and more are at most six. -/
theorem length_le_six {rest : List Byte}
    (h : ∀ b1 b2 b3 b4 b5 b6 b7 more, rest = b1 :: b2 :: b3 :: b4 :: b5 :: b6 :: b7 :: more → False) : rest.length ≤ 6 := by
  match rest with
  | b1 :: b2 :: b3 :: b4 :: b5 :: b6 :: b7 :: more => exact (h b1 b2 b3 b4 b5 b6 b7 more rfl).elim
  | [] | [_] | [_, _] | [_, _, _] | [_, _, _, _] | [_, _, _, _, _] | [_, _, _, _, _, _] => simp

/-- From SCANNING the draining loop does to `bytes` what the scan says, whether or not a frame was accepted before (R111). -/
def RefinesScan (sync endm : Byte) (bytes : List Byte) : Prop :=
  ∀ (s : State) (got : Bool), s.syncState = .scanning → s.rxCount = 0#4 → s.cfg.syncMarker = sync → s.cfg.endMarker = endm →
    s.consume true got bytes =
      ({ (scan sync endm bytes).foldl ScanItem.apply s with rxq := [] }, got || (scan sync endm bytes).any ScanItem.isFrame)

/-- An item other than a partial candidate, then the rest, in the scan and in the loop. -/
theorem RefinesScan.cons {item : ScanItem} {bytes rest : List Byte} (h : RefinesScan sync endm rest)
    (hscan : scan sync endm bytes = item :: scan sync endm rest) (hitem : ∀ held, item ≠ .held held)
    (hloop : ∀ (s : State) (got : Bool), s.syncState = .scanning → s.rxCount = 0#4 → s.cfg.syncMarker = sync →
      s.cfg.endMarker = endm → s.consume true got bytes = (item.apply s).consume true (got || item.isFrame) rest) :
    RefinesScan sync endm bytes := by
  intro s got hs hc hsync hend
  obtain ⟨hs', hc', hcfg⟩ := ScanItem.apply_scanning s item hitem
  rw [hloop s got hs hc hsync hend,
    h _ _ (hs'.trans hs) (hc'.trans hc) (by rw [hcfg, hsync]) (by rw [hcfg, hend]), hscan]
  simp [Bool.or_assoc]

theorem RefinesScan.candidate {rest : List Byte} (h : RefinesScan sync endm rest) (b1 b2 b3 b4 b5 b6 b7 : Byte) :
    RefinesScan sync endm (sync :: b1 :: b2 :: b3 :: b4 :: b5 :: b6 :: b7 :: rest) := by
  refine h.cons (scan_candidate ..) (fun _ => by split <;> simp) fun s got hs hc hsync hend => ?_
  rw [State.consume_candidate (drain := true) rest b1 b2 b3 b4 b5 b6 b7 hs hc hsync.symm (by simp), hend]
  split <;> simp [ScanItem.isFrame]

theorem RefinesScan.discard {b : Byte} {rest : List Byte} (h : RefinesScan sync endm rest) (hb : b ≠ sync) :
    RefinesScan sync endm (b :: rest) := by
  refine h.cons (scan_discard hb rest) (by simp) fun s got hs _ hsync _ => ?_
  rw [State.consume_discard (drain := true) rest hs (by rwa [hsync]) (by simp), ScanItem.isFrame, Bool.or_false]

theorem refinesScan_held {rest : List Byte} (hl : rest.length ≤ 6) : RefinesScan sync endm (sync :: rest) := by
  rintro s got hs _ rfl _
  rw [State.consume_cons, State.syncByte_marker hs]
  simp only [Bool.or_false, Bool.not_true, Bool.and_false, if_neg Bool.false_ne_true]
  rw [State.consume_held (n := 1) got rest rfl rfl (by omega) (by omega), scan_held hl]
  simp [ScanItem.apply, ScanItem.isFrame, overwrite, setIfInBounds_eq_set, Nat.add_comm]

/-- Every byte sequence, by the recursion of the scan. -/
theorem refinesScan (sync endm : Byte) (bytes : List Byte) : RefinesScan sync endm bytes := by
  induction bytes using scan.induct sync with
  | case1 b1 b2 b3 b4 b5 b6 b7 rest ih => exact ih.candidate b1 b2 b3 b4 b5 b6 b7
  | case2 b0 b1 b2 b3 b4 b5 b6 b7 rest hb ih => exact ih.discard hb
  | case3 rest hshort => exact refinesScan_held (length_le_six hshort)
  | case4 b rest _ hb ih => exact ih.discard hb
  | case5 => intro s got _ _ _ _; simp [scan, State.consume]

end

section
variable {s : State} {f : Frame}

/-- A frame that starts with the marker, read from SCANNING, is one candidate (R111, R112). -/
theorem State.consume_toList {drain got : Bool} (rest : List Byte) (hs : s.syncState = .scanning) (hc : s.rxCount = 0#4)
    (h0 : f[0] = s.cfg.syncMarker) (hg : (got && !drain) = false) :
    s.consume drain got (f.toList ++ rest) =
      if f[7] = s.cfg.endMarker then
        (if drain then State.consume drain true rest (ScanItem.apply s (.accepted f))
          else ({ ScanItem.apply s (.accepted f) with rxq := rest }, true))
      else State.consume drain got rest (ScanItem.apply s (.failed f)) := by
  have hloop := State.consume_candidate rest f[1] f[2] f[3] f[4] f[5] f[6] f[7] hs hc h0 hg
  rw [← frame_eq f] at hloop
  rw [frame_toList f]
  exact hloop

theorem ScanItem.apply_accepted : ScanItem.apply s (.accepted f) =
    { State.decodeFrame f { s with evLog := s.evLog ++ [⟨.frameOk, 0x00#8⟩] } with rxBuf := f, lastRxMs := s.nowMs } := by
  simp [ScanItem.apply, State.decodeFrame_eq]

end

/-- POLL only appends events (R107, R211). -/
theorem State.poll_evLog (s : State) : s.evLog <+: s.poll.evLog := by
  obtain ⟨new, hnew, _⟩ := s.consume_withLogs s.cfg.pollDrain false s.rxq
  exact ⟨new, hnew.symm⟩

end Sys2Proof.Machine
end

section
/-!
SUPPORT. Decode after Decode (R137), the checksum's bound (R144), and the codes of an echoed frame (R149).
-/
namespace Sys2Proof.Machine

@[simp] theorem State.decodeFrame_cfg (f : Frame) (s : State) : (s.decodeFrame f).cfg = s.cfg :=
  (congrArg State.cfg (s.decodeFrame_eq f) :)

theorem decodedTarget_idem (cfg : Config) (f : Frame) (old : Byte) :
    decodedTarget cfg f (decodedTarget cfg f old) = decodedTarget cfg f old := by
  unfold decodedTarget
  split <;> rfl

theorem decodedRoom_idem (cfg : Config) (f : Frame) (old : Byte) :
    decodedRoom cfg f (decodedRoom cfg f old) = decodedRoom cfg f old := by
  unfold decodedRoom
  split <;> rfl

/-- Seven bytes of at most 255. -/
theorem sum_toNat_le_mul_length (bytes : List Byte) : (bytes.map BitVec.toNat).sum ≤ bytes.length * 255 := by
  have hbyte : ∀ n ∈ bytes.map BitVec.toNat, n ≤ 255 := fun n hn => by
    obtain ⟨b, _, rfl⟩ := List.mem_map.mp hn
    omega
  simpa using List.sum_le_card_nsmul _ 255 hbyte

section
variable (s : State)

/-- Outbound byte 3 is MODE, read as ON_OFF, MODE and FAN (R77, R149). -/
theorem inPower_encodeFrame : inPower s.encodeFrame = s.mode.extractLsb' 0 1 := by
  have hbits : ∀ mode : BitVec 3, (mode.setWidth 8).extractLsb' 0 1 = mode.extractLsb' 0 1 := by decide
  exact hbits s.mode

theorem inMode_encodeFrame : inMode s.encodeFrame = (s.mode.extractLsb' 1 2).setWidth 3 := by
  have hbits : ∀ mode : BitVec 3, (mode.setWidth 8).extractLsb' 1 3 = (mode.extractLsb' 1 2).setWidth 3 := by decide
  exact hbits s.mode

theorem inFan_encodeFrame : inFan s.encodeFrame = 0#3 := by
  have hbits : ∀ mode : BitVec 3, (mode.setWidth 8).extractLsb' 4 3 = 0#3 := by decide
  exact hbits s.mode

end

end Sys2Proof.Machine
end

section
/-!
PROOFS. The statements about the receive loop as a whole and about Decode, the checksum and the echo.
-/
namespace Sys2Proof.Machine

/-- Settles O17: POLL's frame on an attached link, and the report on an unattached one. -/
theorem pollCompletesWithinItsFrame : Obligations.PollCompletesWithinItsFrame := by
  intro s
  cases ha : s.attached with
  | true =>
    refine ⟨_, exec_poll_of_attached ha, s.poll_frame, (s.receive_frame s.cfg.pollDrain).2, s.poll_evLog, ?result⟩
    case result =>
      rw [State.poll_eq]
      cases (s.receive s.cfg.pollDrain).2
      · exact .inl rfl
      · exact .inr rfl
  | false => exact ⟨_, exec_poll_of_unattached ha, rfl, List.suffix_rfl, List.prefix_append _ _, .inl rfl⟩

/-- Settles O21: by the recursion of the scan, no frame accepted before. -/
theorem receiveRefinesScan : Obligations.ReceiveRefinesScan := fun s bytes hs hc =>
  refinesScan s.cfg.syncMarker s.cfg.endMarker bytes s false hs hc rfl rfl

/-- Settles O22: the loop that stops, over one candidate. -/
theorem candidateIsTakenWhole : Obligations.CandidateIsTakenWhole := by
  intro s f rest hs hc h0
  rw [State.consume_toList rest hs hc h0 rfl]
  refine ⟨fun hend => ?discarded, fun hend => ?accepted⟩
  case discarded => rw [if_neg hend]; rfl
  case accepted => rw [if_pos hend, if_neg Bool.false_ne_true, ScanItem.apply_accepted]

/-- Settles O26: Decode of each frame as one equation a register, and the branches that the hypotheses choose. -/
theorem decodeIsIdempotentLastFrameWins : Obligations.DecodeIsIdempotentLastFrameWins := by
  intro s f g rawT validT rawR validR t
  have htarget : t.targetTemp = if validT g then rawT g + s.cfg.tgtTempOffset else
      if validT f then rawT f + s.cfg.tgtTempOffset else s.targetTemp := by
    simp only [t, State.decodeFrame_targetTemp, State.decodeFrame_cfg, validT, rawT]
  have hroom : t.currentTemp = if validR g then rawR g + s.cfg.roomTempOffset else
      if validR f then rawR f + s.cfg.roomTempOffset else s.currentTemp := by
    simp only [t, State.decodeFrame_currentTemp, State.decodeFrame_cfg, validR, rawR]
  refine ⟨?idempotent, ?others, fun hg => ?_, fun hg hf => ?_, fun hg hf => ?_, fun hg => ?_, fun hg hf => ?_,
    fun hg hf => ?_⟩
  case idempotent => simp [State.decodeFrame_eq, decodedTarget_idem, decodedRoom_idem]
  case others => simp [t, State.decodeFrame_eq]
  · rw [htarget, if_pos hg]
  · rw [htarget, if_neg hg, if_pos hf]
  · rw [htarget, if_neg hg, if_neg hf]
  · rw [hroom, if_pos hg]
  · rw [hroom, if_neg hg, if_pos hf]
  · rw [hroom, if_neg hg, if_neg hf]

/-- Settles O28: truncation after the sum or at every addition, and 7 times 255. -/
theorem checksumIsTheWraparoundSum : Obligations.ChecksumIsTheWraparoundSum := by
  intro bytes
  refine ⟨BitVec.toNat_ofNat _ 8, ?fold, fun hlen => ?bound⟩
  case fold => simpa [checksum] using checksum_aux bytes 0
  case bound => simpa [hlen] using sum_toNat_le_mul_length bytes

/-- Settles O30: the echo is one candidate, and byte 3 carries MODE where the inbound layout has three fields. -/
theorem echoIsAcceptedIffChecksumIsEndMarker : Obligations.EchoIsAcceptedIffChecksumIsEndMarker := by
  intro s sender hs hc hcfg f
  have h0 : f[0] = s.cfg.syncMarker := (congrArg Config.syncMarker hcfg).symm
  have hloop := State.consume_toList (drain := true) (got := false) [] hs hc h0 rfl
  rw [List.append_nil] at hloop
  rw [hloop]
  refine ⟨?accepted, fun hend => ?decoded⟩
  case accepted =>
    split
    next hend => exact (decide_eq_true hend).symm
    next hend => exact (decide_eq_false hend).symm
  case decoded =>
    rw [if_pos hend, if_pos rfl, ScanItem.apply_accepted]
    simp only [State.consume, State.decodeFrame_onOff, State.decodeFrame_mode, State.decodeFrame_fan]
    exact ⟨inPower_encodeFrame sender, inMode_encodeFrame sender, inFan_encodeFrame sender⟩

/-- Settles O31: the bytes other than the role code add at most 24 to the marker, and the sum is the end marker's modulo 256. -/
theorem endMarkerChecksumNeedsARoleCodeInRange : Obligations.EndMarkerChecksumNeedsARoleCodeInRange := by
  intro s hsync hoffset hmax hmode hfan hend
  obtain ⟨h0, _, h2, h3, _, _, _, h5, h6, h7, _, _⟩ := encodeWritesTheBytes s
  have h1 : s.encodeFrame[1] = outRole s.cfg s.role := rfl
  have h4 : s.encodeFrame[4].toNat ≤ 14 := by
    have htemp : s.encodeFrame[4].toNat = _ := outTemp_toNat s.cfg s.targetTemp
    rw [htemp, hmax]
    exact Nat.min_le_right _ _
  have hmodeCode : s.mode.toNat ≤ 5 := of_decide_eq_true hmode
  have hfanCode : s.fan.toNat ≤ 4 := of_decide_eq_true hfan
  rw [hend, h0, h1, h2, h3, h5, h6, hsync] at h7
  simp only [BitVec.toNat_ofNat, BitVec.toNat_setWidth_of_le (show 1 ≤ 8 by decide),
    BitVec.toNat_setWidth_of_le (show 3 ≤ 8 by decide)] at h7
  omega

end Sys2Proof.Machine
end
